-- ==== Sys2Proof/Word.lean ====
section
/-! DEFINITION. The data formats of the engine (spec/30_encoding.md R60 to R63) and the register latch. -/

namespace Sys2Proof

/-- A byte, 8 bits (00_scope.md R9). -/
abbrev Byte := BitVec 8

/-- A nibble, 4 bits (00_scope.md R9). -/
abbrev Nibble := BitVec 4

/-- The 16-bit command word `CW` (30_encoding.md R71). -/
abbrev CommandWord := BitVec 16

/-- A block: 16 bytes numbered 0 to 15, never one wide integer (30_encoding.md R61, 20_memory.md R41). -/
abbrev Block := Vector Byte 16

/-- One slot's entropy record: 32 bytes (30_encoding.md R62). -/
abbrev EntropyRecord := Vector Byte 32

/-- An identifier: exactly 36 bytes (30_encoding.md R63). -/
abbrev Identifier := Vector Byte 36

/-- A register that hardware reset leaves *unwritten*: it then "holds no value", which is the reset value
the spec itself gives it, and reading it is a fault, "never a read of zero" (10_state.md R26, R27). -/
inductive Latch (α : Type) where
  | unwritten
  | written (v : α)
deriving DecidableEq, Repr, Inhabited

end Sys2Proof
end

