-- ==== Sys2Proof/Syntax.lean ====
section
/-! DEFINITION. The operation set (spec/30_encoding.md R75), one constructor per row of the opcode table. -/

namespace Sys2Proof

/-- The eight operations. A slot operand, a start index and the payload are the command's own; the issuing
agent is implicit (`State.issuer`). -/
inductive Instr where
  /-- INIT, issued by the host (44_external_ops.md R185). -/
  | init
  /-- CLAIM s (43_arbiter.md R151). -/
  | claim (slot : Byte)
  /-- ADVANCE s (40_generator_advance.md R91). -/
  | advance (slot : Byte)
  /-- ENCODE (42_encoder.md R131). -/
  | encode
  /-- RELEASE s (43_arbiter.md R153). -/
  | release (slot : Byte)
  /-- NEXT start (43_arbiter.md R157). -/
  | next (start : Byte)
  /-- ISWF with its payload bytes, byte 0 first; ARG is the payload's length (44_external_ops.md R182). -/
  | iswf (payload : List Byte)
  /-- GENV4, the public entry point, another name of NEXT 0 (44_external_ops.md R180). -/
  | genv4
deriving DecidableEq, Repr

end Sys2Proof
end

