-- ==== Sys2Proof/Config.lean ====
section
/-! DEFINITION. What stands outside the engine: the agents, what they present to it, and the free values
(draws) the rules do not constrain. -/

namespace Sys2Proof

/-- The agents that issue operations: the host and the ports P_0, P_1, ... (10_state.md R10). -/
inductive Agent where
  | host
  | port (p : Nat)
deriving DecidableEq, Repr, Inhabited

/-- A command as presented to the engine: the command word and the payload bytes after it
(30_encoding.md R71, R73). -/
structure Command where
  word : CommandWord
  payload : List Byte
deriving DecidableEq, Repr, Inhabited

/-- What the outside world does next (log 2). -/
inductive Event where
  /-- An agent presents a command (30_encoding.md R71). -/
  | command (a : Agent) (c : Command)
  /-- The schedule lets port `p` take the next step of its NEXT (20_memory.md R55). -/
  | proceed (p : Nat)
  /-- A hardware reset (70_reset_and_hazards.md R230). -/
  | hardwareReset
deriving DecidableEq, Repr, Inhabited

/-- The answer of `EntropyFill(32)`: FAIL or exactly 32 bytes (00_scope.md R8, 44_external_ops.md R188). -/
inductive Draw where
  | fail
  | filled (e : EntropyRecord)
deriving DecidableEq, Repr

/-- The largest pool the 8-bit operand can name (44_external_ops.md R186). DESIGN CHOICE of the spec, D3. -/
def Config.maxSlots : Nat := 256

/-- FREE VALUE (log 2): what the outside world does once `State.inputs` is used up. "Which agent steps next
is a free choice of the schedule and a claim must hold for every schedule" (20_memory.md R55). -/
opaque Config.environment : Nat → Event

/-- FREE VALUE (log 3): the bytes the entropy source supplies to one call once `State.supply` is used up.
Anything but exactly 32 bytes is a FAIL (44_external_ops.md R188). -/
opaque Config.entropySupply : Nat → List Byte

/-- FREE VALUE (log 4): KEY of a slot after a fatal INIT, "unspecified for every s" (60_exceptions.md R206). -/
opaque Config.keyAfterFatal : Nat → Nat → Latch Block

/-- FREE VALUE (log 4): CHAIN of a slot after a fatal INIT, "unspecified for every s" (60_exceptions.md R206). -/
opaque Config.chainAfterFatal : Nat → Nat → Latch Block

end Sys2Proof
end

