-- ==== Sys2Proof/WellFormed.lean ====
section
/-! DEFINITION. Which operations a command can carry, for a pool of `nSlots` slots
(spec/30_encoding.md R72, R73). -/

namespace Sys2Proof

/-- CLAIM, ADVANCE and RELEASE name a slot, `s < N_SLOTS` (30_encoding.md R72); a payload has at most 255
bytes (R73); every start index is legal (R72). -/
def Instr.wf (nSlots : Nat) : Instr → Bool
  | .init => true
  | .claim slot => decide (slot.toNat < nSlots)
  | .advance slot => decide (slot.toNat < nSlots)
  | .encode => true
  | .release slot => decide (slot.toNat < nSlots)
  | .next _ => true
  | .iswf payload => decide (payload.length ≤ 255)
  | .genv4 => true

end Sys2Proof
end

