-- ==== Sys2Proof/Decode.lean ====
section
/-! DEFINITION. Decoding of command words and, after it, the encoder (spec/30_encoding.md R71 to R77). -/

namespace Sys2Proof

/-- Why a command names no operation (30_encoding.md R76, R73). -/
inductive DecodeError where
  /-- OPC is 0x0 or 0x8..0xF. -/
  | reservedOpcode
  /-- ZERO is not 0b0000. -/
  | nonzeroZero
  /-- INIT or ENCODE with ARG ≠ 0. -/
  | nonzeroArg
  /-- CLAIM, ADVANCE or RELEASE with ARG ≥ N_SLOTS. -/
  | reservedSlot
  /-- The payload is not as long as the command word says. -/
  | payloadLength
deriving DecidableEq, Repr

/-- `CW[15:12]` (30_encoding.md R71). -/
def opcOf (w : CommandWord) : Nibble := w.extractLsb' 12 4

/-- `CW[11:8]`, must be zero (30_encoding.md R71). -/
def zeroOf (w : CommandWord) : Nibble := w.extractLsb' 8 4

/-- `CW[7:0]` (30_encoding.md R71). -/
def argOf (w : CommandWord) : Byte := w.extractLsb' 0 8

/-- How many payload bytes follow, known "from its first word alone" (30_encoding.md R73). -/
def payloadLength (w : CommandWord) : Nat :=
  if opcOf w = 0x7 then (argOf w).toNat else 0

/-- A command whose ARG must be 0. -/
def decodeNoArg (arg : Byte) (i : Instr) : Except DecodeError Instr :=
  if arg = 0 then .ok i else .error .nonzeroArg

/-- A command whose ARG is a slot number (30_encoding.md R72). -/
def decodeSlot (nSlots : Nat) (arg : Byte) (mk : Byte → Instr) : Except DecodeError Instr :=
  if arg.toNat < nSlots then .ok (mk arg) else .error .reservedSlot

/-- The rows of the opcode map (30_encoding.md R75). The word 0x6000 stands in two rows, NEXT 0 and GENV4;
it decodes to the row with the narrower mask, GENV4, which has the same effect (log 5). -/
def decodeFields (nSlots : Nat) (opc : Nibble) (arg : Byte) (payload : List Byte) :
    Except DecodeError Instr :=
  match opc.toNat with
  | 1 => decodeNoArg arg .init
  | 2 => decodeSlot nSlots arg .claim
  | 3 => decodeSlot nSlots arg .advance
  | 4 => decodeNoArg arg .encode
  | 5 => decodeSlot nSlots arg .release
  | 6 => if arg = 0 then .ok .genv4 else .ok (.next arg)
  | 7 => .ok (.iswf payload)
  | _ => .error .reservedOpcode

/-- Decode a command for a pool of `nSlots` slots. It depends on no state (30_encoding.md R77). -/
def decode (nSlots : Nat) (c : Command) : Except DecodeError Instr :=
  if zeroOf c.word ≠ 0 then .error .nonzeroZero
  else if c.payload.length ≠ payloadLength c.word then .error .payloadLength
  else decodeFields nSlots (opcOf c.word) (argOf c.word) c.payload

/-- A command word from OPC and ARG, ZERO being 0b0000 (30_encoding.md R71). -/
def commandWord (opc : Nibble) (arg : Byte) : CommandWord := (opc.setWidth 16 <<< 12) ||| arg.setWidth 16

/-- The command of an operation (30_encoding.md R75). -/
def encode : Instr → Command
  | .init => ⟨commandWord 0x1 0, []⟩
  | .claim slot => ⟨commandWord 0x2 slot, []⟩
  | .advance slot => ⟨commandWord 0x3 slot, []⟩
  | .encode => ⟨commandWord 0x4 0, []⟩
  | .release slot => ⟨commandWord 0x5 slot, []⟩
  | .next start => ⟨commandWord 0x6 start, []⟩
  | .iswf payload => ⟨commandWord 0x7 (BitVec.ofNat 8 payload.length), payload⟩
  | .genv4 => ⟨commandWord 0x6 0, []⟩

/-- The name the decoder gives an operation: NEXT 0 is spelt GENV4 (30_encoding.md R79; log 5). -/
def Instr.decodedName : Instr → Instr
  | .next start => if start = 0 then .genv4 else .next start
  | i => i

/-- The command whose bits are `w`, numbered as spec/opcode_table.json numbers them: the command word is bits
15..0, payload byte k is bits 23+8k .. 16+8k, and every bit from `nbits` up is 0. -/
def tableCommand (nbits w : Nat) : Command :=
  let v := w % 2 ^ nbits
  let cw : CommandWord := BitVec.ofNat 16 v
  ⟨cw, (List.range (payloadLength cw)).map fun k => BitVec.ofNat 8 (v >>> (16 + 8 * k))⟩

/-- What the decoder reads from a word of the opcode table, for the largest pool (no slot reserved; log 17). -/
def decodeTableWord (nbits w : Nat) : Option Instr :=
  (decode Config.maxSlots (tableCommand nbits w)).toOption

end Sys2Proof
end

