-- ==== Sys2Proof/Machine/State.lean ====
section
/-! DEFINITION. The state of the engine as plain data (spec/10_state.md), the reasons a step can stop, and reset. -/

namespace Sys2Proof.Machine

/-- PHASE, encodings 0, 1, 2 (10_state.md R17). -/
inductive Phase where
  | reset
  | ready
  | fatal
deriving DecidableEq, Repr

/-- FCAUSE, encodings 0 to 3 (10_state.md R18, 60_exceptions.md R200). -/
inductive FCause where
  | none
  | configPoolSize
  | entropyUnavailable
  | cipherConstruct
deriving DecidableEq, Repr

/-- FLAG[s]: 0 = free, 1 = claimed; no other value is representable (10_state.md R13). -/
inductive Flag where
  | free
  | claimed
deriving DecidableEq, Repr

/-- PSTATE[p], encodings 0 to 4 (10_state.md R24). -/
inductive PState where
  | idle
  | scan
  | adv
  | enc
  | rel
deriving DecidableEq, Repr

/-- One slot: KEY[s], CHAIN[s] and FLAG[s] (10_state.md R11, R12, R13). -/
structure Slot where
  key : Latch Block
  chain : Latch Block
  flag : Flag
deriving DecidableEq, Repr

/-- One port's private state (10_state.md R19 to R24). -/
structure Port where
  /-- PSTATE[p]. -/
  pstate : PState
  /-- IDX[p], the scan index (R23). -/
  idx : Latch Nat
  /-- HELD[p]: none, or the slot claimed and not yet released (R19). -/
  held : Option Nat
  /-- RAW[p], the result latch of ADVANCE (R20). -/
  raw : Latch Block
  /-- STR[p], the result latch of ENCODE (R21). -/
  str : Latch Identifier
  /-- WF[p], the result latch of ISWF (R21). -/
  wf : Latch Bool
deriving DecidableEq, Repr

/-- What an operation returns when complete (30_encoding.md R74). -/
inductive Response where
  /-- INIT and RELEASE: nothing but completion. -/
  | done
  /-- CLAIM (1 = claimed) and ISWF. -/
  | bit (b : Bool)
  /-- ADVANCE: the 16 bytes of RAW[p]. -/
  | block (b : Block)
  /-- ENCODE, NEXT and GENV4: the 36 bytes of STR[p]. -/
  | ident (u : Identifier)
deriving DecidableEq, Repr

/-- The machine. `slots` and `ports` have one entry per slot and per port: their lengths are the parameters
N_SLOTS and M_PORTS (00_scope.md R3, R5; log 1, log 12). The last five fields are the model's own. -/
structure State where
  /-- PHASE. -/
  phase : Phase
  /-- FCAUSE. -/
  fcause : FCause
  /-- FINFO, 9 bits. -/
  finfo : BitVec 9
  /-- KEY[s], CHAIN[s], FLAG[s] for s = 0 .. N_SLOTS−1, in slot order. -/
  slots : List Slot
  /-- PSTATE[p], IDX[p], HELD[p], RAW[p], STR[p], WF[p] for p = 0 .. M_PORTS−1. -/
  ports : List Port
  /-- MODEL: the agent whose step this is, the implicit operand of every operation (log 7). -/
  issuer : Agent
  /-- MODEL: the response the last step returned, and to whom; none where it completed no operation (log 8). -/
  out : Option (Agent × Response)
  /-- MODEL: what the outside world will do, first event first (log 2). -/
  inputs : List Event
  /-- MODEL: what the entropy source will supply, one entry per EntropyFill(32) (log 3). -/
  supply : List (List Byte)
  /-- MODEL: the counter that free values are applied to (log 4). -/
  fresh : Nat
deriving DecidableEq, Repr

/-- Where the spec's treatment is *fault*: no source defines a behaviour and none is given
(93_implementation_defined.md U1, U12; 70_reset_and_hazards.md R242). All are safe: the model stops. -/
inductive Fault where
  /-- ADVANCE s or RELEASE s, or NEXT's adv or rel step, by a port with HELD[p] ≠ s (R242). Safe. -/
  | notHolder
  /-- CLAIM or NEXT by a port that holds a slot (R242). Safe. -/
  | alreadyHolding
  /-- An operation issued to a port whose PSTATE ≠ IDLE (R242). Safe. -/
  | portBusy
  /-- A read of an unwritten register: ENCODE before any ADVANCE of the port, a caller taking STR[p] or WF[p]
  too early, and KEY, CHAIN, IDX and NEXT's enc and rel latches in states no run reaches: "The model must treat such
a read as a fault, not as a read of zero" (10_state.md R27, D18, U12). Safe. -/
  | unwrittenRead
deriving DecidableEq, Repr

/-- Where the spec's treatment is *refuse*: no step is taken. All are safe. -/
inductive Refusal where
  /-- An instruction whose meaning is not written yet; raised by `exec`'s arms only. Safe. -/
  | notModelled (mnemonic : String)
  /-- A reserved command word (30_encoding.md R76, U9); raised by `step`, and for a slot operand by the
  meaning. Safe. -/
  | reserved (why : DecodeError)
  /-- An operation not enabled in this phase (70_reset_and_hazards.md R233), a second INIT (44_external_ops.md
  R189). Safe. -/
  | notEnabled (phase : Phase)
  /-- The issuing or scheduled port is not one of P_0 .. P_(M_PORTS−1): the spec names no such agent (log 7). Safe. -/
  | noSuchPort
  /-- A port operation issued by the host, which has no port state (10_state.md R10; log 7). Safe. -/
  | hostHasNoPort
deriving DecidableEq, Repr

/-- The outcome of one step. -/
abbrev Result := Host.Outcome State Fault Refusal

/-- A slot right after hardware reset (10_state.md R26). -/
def Slot.reset : Slot := { key := .unwritten, chain := .unwritten, flag := .free }

/-- A port right after hardware reset (10_state.md R26). -/
def Port.reset : Port :=
  { pstate := .idle, idx := .unwritten, held := none, raw := .unwritten, str := .unwritten, wf := .unwritten }

/-- The machine right after hardware reset, for a configured N_SLOTS = `nSlots` and M_PORTS = `mPorts`
(10_state.md R26, 70_reset_and_hazards.md R230). Nothing is presented yet and nothing drawn. -/
def State.resetWith (nSlots mPorts : Nat) : State :=
  { phase := .reset, fcause := .none, finfo := 0
    slots := List.replicate nSlots Slot.reset, ports := List.replicate mPorts Port.reset
    issuer := .host, out := none, inputs := [], supply := [], fresh := 0 }

/-- Reset at the parameters the model names, N_SLOTS = 256 and M_PORTS = 2; the spec leaves both OPEN (log 1). -/
def State.reset : State := State.resetWith 256 2

end Sys2Proof.Machine
end

