-- ==== Sys2Proof/Machine/Ops.lean ====
section
/-! DEFINITION. The named operations over slots, ports and global status: reads, writes, responses, draws,
raising Fatal and hardware reset. -/

namespace Sys2Proof

/-- A block from its byte at each position. -/
def Block.tab (f : Fin 16 → Byte) : Block :=
  #v[f 0, f 1, f 2, f 3, f 4, f 5, f 6, f 7, f 8, f 9, f 10, f 11, f 12, f 13, f 14, f 15]

namespace Machine

/-! ### Parameters and reads -/

/-- N_SLOTS as configured (00_scope.md R3, R4). -/
def State.nSlots (s : State) : Nat := s.slots.length

/-- M_PORTS (00_scope.md R5). -/
def State.mPorts (s : State) : Nat := s.ports.length

/-- MASK = N_SLOTS − 1 (00_scope.md R3). -/
def State.mask (s : State) : Nat := s.nSlots - 1

/-- KEY[i]; unwritten outside the pool. -/
def State.key (i : Nat) (s : State) : Latch Block := (s.slots[i]?).elim .unwritten Slot.key

/-- CHAIN[i]; unwritten outside the pool. -/
def State.chain (i : Nat) (s : State) : Latch Block := (s.slots[i]?).elim .unwritten Slot.chain

/-- FLAG[i]; none outside the pool. -/
def State.flag (i : Nat) (s : State) : Option Flag := (s.slots[i]?).map Slot.flag

/-- HELD[p]; none for a port that does not exist. -/
def State.held (p : Nat) (s : State) : Option Nat := (s.ports[p]?).bind Port.held

/-! ### Writes -/

/-- Change slot `i` alone. -/
def State.modifySlot (i : Nat) (f : Slot → Slot) (s : State) : State := { s with slots := s.slots.modify i f }

/-- Change port `p` alone. -/
def State.modifyPort (p : Nat) (f : Port → Port) (s : State) : State := { s with ports := s.ports.modify p f }

/-- `CHAIN[i] <- b`. -/
def State.setChain (i : Nat) (b : Block) (s : State) : State := s.modifySlot i fun x => { x with chain := .written b }

/-- `FLAG[i] <- f`. -/
def State.setFlag (i : Nat) (f : Flag) (s : State) : State := s.modifySlot i fun x => { x with flag := f }

/-- `PSTATE[p] <- q`. -/
def State.setPState (p : Nat) (q : PState) (s : State) : State := s.modifyPort p fun x => { x with pstate := q }

/-- `IDX[p] <- i`. -/
def State.setIdx (p i : Nat) (s : State) : State := s.modifyPort p fun x => { x with idx := .written i }

/-- `HELD[p] <- h`. -/
def State.setHeld (p : Nat) (h : Option Nat) (s : State) : State := s.modifyPort p fun x => { x with held := h }

/-- `RAW[p] <- b`. -/
def State.setRaw (p : Nat) (b : Block) (s : State) : State := s.modifyPort p fun x => { x with raw := .written b }

/-- `STR[p] <- u`. -/
def State.setStr (p : Nat) (u : Identifier) (s : State) : State := s.modifyPort p fun x => { x with str := .written u }

/-- `WF[p] <- b`. -/
def State.setWf (p : Nat) (b : Bool) (s : State) : State := s.modifyPort p fun x => { x with wf := .written b }

/-- `respond(r)`: the operation is complete and `r` goes to the issuing agent (30_encoding.md R74). -/
def State.respond (r : Response) (s : State) : State := { s with out := some (s.issuer, r) }

/-- A step that completes no operation returns nothing. -/
def State.silent (s : State) : State := { s with out := none }

/-! ### Encodings and reads by the host and the callers -/

/-- The code of PHASE (10_state.md R17). -/
def Phase.code : Phase → BitVec 2
  | .reset => 0
  | .ready => 1
  | .fatal => 2

/-- The code of FCAUSE (10_state.md R18). -/
def FCause.code : FCause → BitVec 2
  | .none => 0
  | .configPoolSize => 1
  | .entropyUnavailable => 2
  | .cipherConstruct => 3

/-- The code of a claim flag (10_state.md R13). -/
def Flag.code : Flag → BitVec 1
  | .free => 0
  | .claimed => 1

/-- The code of PSTATE (10_state.md R24). -/
def PState.code : PState → BitVec 3
  | .idle => 0
  | .scan => 1
  | .adv => 2
  | .enc => 3
  | .rel => 4

/-- What the host reads: PHASE, FCAUSE and FINFO (10_state.md R17, R18). -/
def State.hostStatus (s : State) : BitVec 2 × BitVec 2 × BitVec 9 := (s.phase.code, s.fcause.code, s.finfo)

/-- The value of a register, and the one place where an unwritten one stops the model: "The model must treat such
a read as a fault, not as a read of zero" (10_state.md R27; 92_eei_decisions.md D18; 93_implementation_defined.md
U12). -/
def readLatch {α : Type} (r : Latch α) : Except Fault α :=
  match r with
  | .written v => .ok v
  | .unwritten => .error .unwrittenRead

/-- Go on with the value of a register; a fault where it is unwritten (10_state.md R27). -/
def withLatch {α : Type} (r : Latch α) (k : α → Result) : Result :=
  match readLatch r with
  | .ok v => k v
  | .error f => .fault f

/-- A caller takes STR[p] (10_state.md R21); a fault before any ENCODE (U12). -/
def State.takeStr (p : Nat) (s : State) : Except Fault Identifier := readLatch ((s.ports[p]?).elim .unwritten Port.str)

/-- A caller takes WF[p] (10_state.md R21); a fault before any ISWF (U12). -/
def State.takeWf (p : Nat) (s : State) : Except Fault Bool := readLatch ((s.ports[p]?).elim .unwritten Port.wf)

/-! ### Raising Fatal, hardware reset -/

/-- `raise Fatal(cause, info)` (60_exceptions.md R204): FCAUSE, FINFO and PHASE are written and nothing else;
there is no vector, no saved context and no handler. KEY and CHAIN are then "unspecified for every s" and the
flags keep their value (R206): the contents are free values (log 4). -/
def raiseFatal (cause : FCause) (info : Nat) (s : State) : State :=
  { s with
    phase := .fatal, fcause := cause, finfo := BitVec.ofNat 9 info
    slots := s.slots.mapIdx fun i x =>
      { x with key := Config.keyAfterFatal s.fresh i, chain := Config.chainAfterFatal s.fresh i }
    fresh := s.fresh + 1 }

/-- A hardware reset (70_reset_and_hazards.md R230), the only way to leave FATAL (60_exceptions.md R208). The
outside world (`inputs`, `supply`, `fresh`) is not reset. -/
def hardwareReset (s : State) : State :=
  { s with
    phase := .reset, fcause := .none, finfo := 0
    slots := s.slots.map fun _ => Slot.reset, ports := s.ports.map fun _ => Port.reset
    issuer := .host, out := none }

/-! ### The entropy source -/

/-- What a supply of bytes is to `EntropyFill(32)`: "either FAIL or exactly 32 bytes; a short fill counts as
FAIL" (44_external_ops.md R188). -/
def drawOf (bytes : List Byte) : Draw :=
  if h : bytes.length = 32 then .filled ⟨bytes.toArray, by simpa using h⟩ else .fail

/-- One call `EntropyFill(32)`: the next supply, and after them a free value (00_scope.md R8; log 3). -/
def entropyFill (supply : List (List Byte)) (fresh : Nat) : Draw × List (List Byte) × Nat :=
  match supply with
  | bytes :: rest => (drawOf bytes, rest, fresh)
  | [] => (drawOf (Config.entropySupply fresh), [], fresh + 1)

end Machine

end Sys2Proof
end

