-- ==== Sys2Proof/Machine/Cipher.lean ====
section
/-! DEFINITION. The block-cipher capability and its AES-128 instantiation (spec/41_cipher_aes128.md). The spec
takes AES from the commission and from general knowledge (D2, G2; log 13). -/

namespace Sys2Proof.Machine

/-! ### The state array (R113) -/

/-- `st[r][c] = in[r + 4c]` (R113). -/
def cell (x : Block) (r c : Fin 4) : Byte := x[r.val + 4 * c.val]

/-- `out[r + 4c] = st[r][c]` (R113). -/
def ofCells (f : Fin 4 → Fin 4 → Byte) : Block :=
  #v[f 0 0, f 1 0, f 2 0, f 3 0, f 0 1, f 1 1, f 2 1, f 3 1,
     f 0 2, f 1 2, f 2 2, f 3 2, f 0 3, f 1 3, f 2 3, f 3 3]

/-! ### GF(2^8) (R120) -/

/-- `xtime(a)`, multiplication by x modulo 0x11B (R120). -/
def xtime (a : Byte) : Byte := if a.getLsbD 7 then (a <<< 1) ^^^ 0x1B else a <<< 1

/-- The exclusive or of `xtime^i(a)` over the set bits `i < n` of `b`. -/
def gfMulBits (a b : Byte) : Nat → Byte
  | 0 => 0
  | n + 1 => gfMulBits a b n ^^^ (if b.getLsbD n then xtime^[n] a else 0)

/-- A general product in GF(2^8) (R120). -/
def gfMul (a b : Byte) : Byte := gfMulBits a b 8

/-! ### SubBytes (R115) -/

/-- The S-box, row = high nibble, column = low nibble (R115). -/
def sboxTable : List Byte :=
  [0x63, 0x7c, 0x77, 0x7b, 0xf2, 0x6b, 0x6f, 0xc5, 0x30, 0x01, 0x67, 0x2b, 0xfe, 0xd7, 0xab, 0x76] ++
  [0xca, 0x82, 0xc9, 0x7d, 0xfa, 0x59, 0x47, 0xf0, 0xad, 0xd4, 0xa2, 0xaf, 0x9c, 0xa4, 0x72, 0xc0] ++
  [0xb7, 0xfd, 0x93, 0x26, 0x36, 0x3f, 0xf7, 0xcc, 0x34, 0xa5, 0xe5, 0xf1, 0x71, 0xd8, 0x31, 0x15] ++
  [0x04, 0xc7, 0x23, 0xc3, 0x18, 0x96, 0x05, 0x9a, 0x07, 0x12, 0x80, 0xe2, 0xeb, 0x27, 0xb2, 0x75] ++
  [0x09, 0x83, 0x2c, 0x1a, 0x1b, 0x6e, 0x5a, 0xa0, 0x52, 0x3b, 0xd6, 0xb3, 0x29, 0xe3, 0x2f, 0x84] ++
  [0x53, 0xd1, 0x00, 0xed, 0x20, 0xfc, 0xb1, 0x5b, 0x6a, 0xcb, 0xbe, 0x39, 0x4a, 0x4c, 0x58, 0xcf] ++
  [0xd0, 0xef, 0xaa, 0xfb, 0x43, 0x4d, 0x33, 0x85, 0x45, 0xf9, 0x02, 0x7f, 0x50, 0x3c, 0x9f, 0xa8] ++
  [0x51, 0xa3, 0x40, 0x8f, 0x92, 0x9d, 0x38, 0xf5, 0xbc, 0xb6, 0xda, 0x21, 0x10, 0xff, 0xf3, 0xd2] ++
  [0xcd, 0x0c, 0x13, 0xec, 0x5f, 0x97, 0x44, 0x17, 0xc4, 0xa7, 0x7e, 0x3d, 0x64, 0x5d, 0x19, 0x73] ++
  [0x60, 0x81, 0x4f, 0xdc, 0x22, 0x2a, 0x90, 0x88, 0x46, 0xee, 0xb8, 0x14, 0xde, 0x5e, 0x0b, 0xdb] ++
  [0xe0, 0x32, 0x3a, 0x0a, 0x49, 0x06, 0x24, 0x5c, 0xc2, 0xd3, 0xac, 0x62, 0x91, 0x95, 0xe4, 0x79] ++
  [0xe7, 0xc8, 0x37, 0x6d, 0x8d, 0xd5, 0x4e, 0xa9, 0x6c, 0x56, 0xf4, 0xea, 0x65, 0x7a, 0xae, 0x08] ++
  [0xba, 0x78, 0x25, 0x2e, 0x1c, 0xa6, 0xb4, 0xc6, 0xe8, 0xdd, 0x74, 0x1f, 0x4b, 0xbd, 0x8b, 0x8a] ++
  [0x70, 0x3e, 0xb5, 0x66, 0x48, 0x03, 0xf6, 0x0e, 0x61, 0x35, 0x57, 0xb9, 0x86, 0xc1, 0x1d, 0x9e] ++
  [0xe1, 0xf8, 0x98, 0x11, 0x69, 0xd9, 0x8e, 0x94, 0x9b, 0x1e, 0x87, 0xe9, 0xce, 0x55, 0x28, 0xdf] ++
  [0x8c, 0xa1, 0x89, 0x0d, 0xbf, 0xe6, 0x42, 0x68, 0x41, 0x99, 0x2d, 0x0f, 0xb0, 0x54, 0xbb, 0x16]

/-- `SBOX[b]` (R115). -/
def sbox (b : Byte) : Byte := sboxTable.getD b.toNat 0

/-- The algebraic form of the S-box on the inverse `x`: x ^ rotl(x,1) ^ rotl(x,2) ^ rotl(x,3) ^ rotl(x,4) ^
0x63 (R115). The cipher uses the table; a statement compares the two. -/
def sboxAffine (x : Byte) : Byte :=
  x ^^^ x.rotateLeft 1 ^^^ x.rotateLeft 2 ^^^ x.rotateLeft 3 ^^^ x.rotateLeft 4 ^^^ 0x63

/-- SubBytes (R115). -/
def subBytes (x : Block) : Block := ofCells fun r c => sbox (cell x r c)

/-! ### ShiftRows, MixColumns, AddRoundKey (R116, R118, R119) -/

/-- ShiftRows: `st'[r][c] = st[r][(c + r) mod 4]` (R116; addition in `Fin 4` is modulo 4). -/
def shiftRows (x : Block) : Block := ofCells fun r c => cell x r (c + r)

/-- One byte of MixColumns from the column (a0, a1, a2, a3) (R118). -/
def mixByte (a0 a1 a2 a3 : Byte) : Fin 4 → Byte
  | 0 => xtime a0 ^^^ (xtime a1 ^^^ a1) ^^^ a2 ^^^ a3
  | 1 => a0 ^^^ xtime a1 ^^^ (xtime a2 ^^^ a2) ^^^ a3
  | 2 => a0 ^^^ a1 ^^^ xtime a2 ^^^ (xtime a3 ^^^ a3)
  | 3 => (xtime a0 ^^^ a0) ^^^ a1 ^^^ a2 ^^^ xtime a3

/-- MixColumns (R118). -/
def mixColumns (x : Block) : Block :=
  ofCells fun r c => mixByte (cell x 0 c) (cell x 1 c) (cell x 2 c) (cell x 3 c) r

/-- AddRoundKey: byte by byte exclusive or (R119). -/
def addRoundKey (x k : Block) : Block := Block.tab fun i => x[i] ^^^ k[i]

/-! ### KeyExpansion (R117) -/

/-- `RCON[j]`, which is x^(j−1) in GF(2^8) (R117). -/
def rcon : Nat → Byte
  | 0 => 0
  | 1 => 1
  | j + 2 => xtime (rcon (j + 1))

/-- Round key `j` from round key `j − 1`: the words w[4j] .. w[4j+3] from w[4j−4] .. w[4j−1] (R117). The first
word takes SubWord(RotWord(w[4j−1])) and RCON[j], each other word its predecessor. -/
def nextRoundKey (j : Nat) (k : Block) : Block :=
  let w0 := #v[k[0] ^^^ sbox k[13] ^^^ rcon j, k[1] ^^^ sbox k[14], k[2] ^^^ sbox k[15], k[3] ^^^ sbox k[12]]
  let w1 := #v[k[4] ^^^ w0[0], k[5] ^^^ w0[1], k[6] ^^^ w0[2], k[7] ^^^ w0[3]]
  let w2 := #v[k[8] ^^^ w1[0], k[9] ^^^ w1[1], k[10] ^^^ w1[2], k[11] ^^^ w1[3]]
  let w3 := #v[k[12] ^^^ w2[0], k[13] ^^^ w2[1], k[14] ^^^ w2[2], k[15] ^^^ w2[3]]
  #v[w0[0], w0[1], w0[2], w0[3], w1[0], w1[1], w1[2], w1[3],
     w2[0], w2[1], w2[2], w2[3], w3[0], w3[1], w3[2], w3[3]]

/-- `rk[j]` (R117). A function of the key alone, no state (10_state.md R16; log 13). -/
def roundKey (key : Block) : Nat → Block
  | 0 => key
  | j + 1 => nextRoundKey (j + 1) (roundKey key j)

/-! ### The cipher (R114) -/

/-- The state after rounds 0 .. `j`, each of rounds 1 .. 9 a full round (R114). -/
def fullRounds (key x : Block) : Nat → Block
  | 0 => addRoundKey x (roundKey key 0)
  | j + 1 => addRoundKey (mixColumns (shiftRows (subBytes (fullRounds key x j)))) (roundKey key (j + 1))

/-- `BlockEncrypt(K, X)`, AES-128 encryption (R110, R111, R114): nine full rounds, then the final round
without MixColumns. -/
def blockEncrypt (key x : Block) : Block :=
  addRoundKey (shiftRows (subBytes (fullRounds key x 9))) (roundKey key 10)

/-- `CipherConstruct(K)`: true is OK, the constant for AES-128 (R112; log 13). -/
def cipherConstruct (_key : Block) : Bool := true

end Sys2Proof.Machine
end

