-- ==== Sys2Proof/Machine/Operands.lean ====
section
/-! DEFINITION. Operands and preconditions: the issuing port, the slot operand, the scan index, nibbles. -/

namespace Sys2Proof.Machine

/-! ### Slot numbers and scan indices -/

/-- Use a slot operand: "a command word with ARG ≥ N_SLOTS names no slot and is reserved" (30_encoding.md R72). -/
def withSlot (slot : Byte) (s : State) (k : Nat → Result) : Result :=
  if slot.toNat < s.nSlots then k slot.toNat else .refused (.reserved .reservedSlot)

/-- `start & MASK` (43_arbiter.md R156). -/
def startIndex (start : Byte) (s : State) : Nat := start.toNat &&& s.mask

/-- `(i + 1) & MASK` (43_arbiter.md R155, 30_encoding.md R80). -/
def nextIndex (i : Nat) (s : State) : Nat := (i + 1) &&& s.mask

/-! ### The issuing port and the protocol's preconditions -/

/-- The port that issues the operation, and its state. -/
def withPort (s : State) (k : Nat → Port → Result) : Result :=
  match s.issuer with
  | .host => .refused .hostHasNoPort
  | .port p =>
    match s.ports[p]? with
    | none => .refused .noSuchPort
    | some x => k p x

/-- An operation is issued to an idle port only (70_reset_and_hazards.md R241 (a), R242). -/
def withIdlePort (s : State) (k : Nat → Port → Result) : Result :=
  withPort s fun p x => if x.pstate = .idle then k p x else .fault .portBusy

/-- Every port operation but ISWF is enabled in READY only (70_reset_and_hazards.md R233). -/
def withReadyPort (s : State) (k : Nat → Port → Result) : Result :=
  withPort s fun _ _ => if s.phase = .ready then withIdlePort s k else .refused (.notEnabled s.phase)

/-- INIT is not checked for who issues it (60_exceptions.md R210); a port that issues it must exist and be
idle like for any operation (70_reset_and_hazards.md R242). -/
def withAnyIssuer (s : State) (k : Result) : Result :=
  match s.issuer with
  | .host => k
  | .port _ => withIdlePort s fun _ _ => k

/-! ### Nibbles and characters -/

/-- The high nibble, `b >> 4` (00_scope.md R9). -/
def hi4 (b : Byte) : Nibble := b.extractLsb' 4 4

/-- The low nibble, `b & 0xF` (00_scope.md R9). -/
def lo4 (b : Byte) : Nibble := b.extractLsb' 0 4

/-- `HEX[n]`, the lowercase hexadecimal digit as an ASCII byte (30_encoding.md R64). -/
def hexDigit (n : Nibble) : Byte :=
  if n.toNat ≤ 9 then BitVec.ofNat 8 (0x30 + n.toNat) else BitVec.ofNat 8 (0x61 + (n.toNat - 10))

/-- The hyphen `-` (30_encoding.md R64). -/
def hyphen : Byte := 0x2D

/-- Characters 8, 13, 18 and 23 are hyphens (30_encoding.md R67). -/
def isHyphenPos (k : Nat) : Bool := k == 8 || k == 13 || k == 18 || k == 23

/-- `pos(i) = 2·i + h(i)`, the first of the two characters of raw byte `i` (30_encoding.md R65). -/
def charPos (i : Nat) : Nat :=
  2 * i + (if i ≤ 3 then 0 else if i ≤ 5 then 1 else if i ≤ 7 then 2 else if i ≤ 9 then 3 else 4)

/-- A hexadecimal digit of either case (44_external_ops.md R182). -/
def isHex (c : Byte) : Bool :=
  (0x30 ≤ c.toNat && c.toNat ≤ 0x39) || (0x41 ≤ c.toNat && c.toNat ≤ 0x46) || (0x61 ≤ c.toNat && c.toNat ≤ 0x66)

end Sys2Proof.Machine
end

