-- ==== Sys2Proof/Machine/Chain.lean ====
section
/-! DEFINITION. The chain unit and ADVANCE (spec/40_generator_advance.md). -/

namespace Sys2Proof.Machine

/-- `BlockEncrypt(KEY[i], CHAIN[i])` (40_generator_advance.md R91); a fault where one of them is unwritten. -/
def nextBlock (i : Nat) (s : State) : Except Fault Block :=
  match readLatch (s.key i), readLatch (s.chain i) with
  | .ok k, .ok x => .ok (blockEncrypt k x)
  | .error f, _ => .error f
  | .ok _, .error f => .error f

/-- `CHAIN[i] <- y; RAW[p] <- y` (40_generator_advance.md R91), shared by ADVANCE and NEXT's adv step. -/
def advanceState (p i : Nat) (y : Block) (s : State) : State := (s.setChain i y).setRaw p y

/-- ADVANCE s (40_generator_advance.md R91); a port that does not hold `s` faults (R95). -/
def execAdvance (slot : Byte) (s : State) : Result :=
  withSlot slot s fun i => withReadyPort s fun p x =>
    if x.held = some i then
      match nextBlock i s with
      | .error f => .fault f
      | .ok y => .next ((advanceState p i y s).respond (.block y))
    else .fault .notHolder

end Sys2Proof.Machine
end

