-- ==== Sys2Proof/Machine/Encoder.lean ====
section
/-! DEFINITION. The encoder and ENCODE (spec/42_encoder.md). -/

namespace Sys2Proof.Machine

/-- The variant byte: `(b & 0x3F) | 0x80` (30_encoding.md R69). -/
def forceVariant (b : Byte) : Byte := (b &&& 0x3F) ||| 0x80

/-- The character of a byte's high nibble. -/
def hexHi (b : Byte) : Byte := hexDigit (hi4 b)

/-- The character of a byte's low nibble. -/
def hexLo (b : Byte) : Byte := hexDigit (lo4 b)

/-- `Encode(r)` (42_encoder.md R131, the character map of 30_encoding.md): bytes 0..3 low nibble first, bytes
4..15 high nibble first, character 14 is `4`, byte 8 has its top bits forced to 10. -/
def encodeBlock (r : Block) : Identifier :=
  #v[hexLo r[0], hexHi r[0], hexLo r[1], hexHi r[1], hexLo r[2], hexHi r[2], hexLo r[3], hexHi r[3], hyphen,
     hexHi r[4], hexLo r[4], hexHi r[5], hexLo r[5], hyphen,
     0x34, hexLo r[6], hexHi r[7], hexLo r[7], hyphen,
     hexHi (forceVariant r[8]), hexLo (forceVariant r[8]), hexHi r[9], hexLo r[9], hyphen,
     hexHi r[10], hexLo r[10], hexHi r[11], hexLo r[11], hexHi r[12], hexLo r[12],
     hexHi r[13], hexLo r[13], hexHi r[14], hexLo r[14], hexHi r[15], hexLo r[15]]

/-- `STR[p] <- Encode(r)` (42_encoder.md R131), shared by ENCODE and NEXT's enc step. -/
def encodeState (p : Nat) (r : Block) (s : State) : State := s.setStr p (encodeBlock r)

/-- ENCODE (42_encoder.md R131). It needs no claim (R136); RAW[p] must be written (10_state.md R27). -/
def execEncode (s : State) : Result :=
  withReadyPort s fun p x => withLatch x.raw fun r =>
    .next ((encodeState p r s).respond (.ident (encodeBlock r)))

end Sys2Proof.Machine
end

