-- ==== Sys2Proof/Machine/Flags.lean ====
section
/-! DEFINITION. The claim flags, the only flags of the engine: the two atomic primitives
(spec/20_memory.md R44, R45). No arithmetic sets a flag (30_encoding.md R80). -/

namespace Sys2Proof.Machine

/-- `CAS(FLAG[i], 0, 1)`: one indivisible action; true and FLAG[i] = 1 where it was 0, else false and nothing
changed; it never fails spuriously (20_memory.md R44). Being inside one step, it has its place in the total
order (R46) and the acquire ordering (R47). -/
def casFlag (i : Nat) (s : State) : Bool × State :=
  if s.flag i = some .free then (true, s.setFlag i .claimed) else (false, s)

/-- `STORE_REL(FLAG[i], 0)`: one indivisible, unconditional write of 0 (20_memory.md R45). -/
def storeRel (i : Nat) (s : State) : State := s.setFlag i .free

end Sys2Proof.Machine
end

