-- ==== Sys2Proof/Machine/Arbiter.lean ====
section
/-! DEFINITION. The arbiter: CLAIM, RELEASE, and NEXT step by step (spec/43_arbiter.md). -/

namespace Sys2Proof.Machine

/-! ### CLAIM and RELEASE -/

/-- `ok <- CAS(FLAG[i], 0, 1); if ok: HELD[p] <- i` (43_arbiter.md R151), shared by CLAIM and NEXT's scan. -/
def claimState (p i : Nat) (s : State) : Bool × State :=
  match casFlag i s with
  | (true, t) => (true, t.setHeld p (some i))
  | (false, t) => (false, t)

/-- CLAIM s (43_arbiter.md R151): one attempt; a failure is an ordinary result. -/
def execClaim (slot : Byte) (s : State) : Result :=
  withSlot slot s fun i => withReadyPort s fun p x =>
    if x.held = none then .next ((claimState p i s).2.respond (.bit (claimState p i s).1))
    else .fault .alreadyHolding

/-- `STORE_REL(FLAG[i], 0); HELD[p] <- none` (43_arbiter.md R153), shared by RELEASE and NEXT's rel step. -/
def releaseState (p i : Nat) (s : State) : State := (storeRel i s).setHeld p none

/-- RELEASE s (43_arbiter.md R153); a port that does not hold `s` faults (R242). -/
def execRelease (slot : Byte) (s : State) : Result :=
  withSlot slot s fun i => withReadyPort s fun p x =>
    if x.held = some i then .next ((releaseState p i s).respond .done) else .fault .notHolder

/-! ### NEXT -/

/-- Acceptance of NEXT (43_arbiter.md R157): `IDX[p] <- start & MASK; PSTATE[p] <- SCAN`. -/
def acceptNext (start : Byte) (s : State) : Result :=
  withReadyPort s fun p x =>
    if x.held = none then .next (((s.setIdx p (startIndex start s)).setPState p .scan).silent)
    else .fault .alreadyHolding

/-- NEXT start: the command is accepted; its later steps are `proceed`'s (43_arbiter.md R157; log 15). -/
def execNext (start : Byte) (s : State) : Result := acceptNext start s

/-- The scan step (43_arbiter.md R157): one claim attempt at IDX[p]; on failure the index moves on. -/
def scanStep (p : Nat) (x : Port) (s : State) : Result :=
  withLatch x.idx fun i =>
    match claimState p i s with
    | (true, t) => .next (t.setPState p .adv).silent
    | (false, t) => .next (t.setIdx p (nextIndex i s)).silent

/-- The adv step (43_arbiter.md R157): the effect of `ADVANCE HELD[p]`. -/
def advStep (p : Nat) (x : Port) (s : State) : Result :=
  match x.held with
  | none => .fault .notHolder
  | some i =>
    match nextBlock i s with
    | .error f => .fault f
    | .ok y => .next ((advanceState p i y s).setPState p .enc).silent

/-- The enc step (43_arbiter.md R157): the effect of ENCODE. -/
def encStep (p : Nat) (x : Port) (s : State) : Result :=
  withLatch x.raw fun r => .next ((encodeState p r s).setPState p .rel).silent

/-- The rel step (43_arbiter.md R157): the effect of `RELEASE HELD[p]`; STR[p] is returned to the caller. -/
def relStep (p : Nat) (x : Port) (s : State) : Result :=
  match x.held with
  | none => .fault .notHolder
  | some i => withLatch x.str fun u => .next (((releaseState p i s).setPState p .idle).respond (.ident u))

/-- The schedule lets port `p` move. Inside NEXT it takes its next step; an idle port has none to take and
nothing happens (20_memory.md R55; log 9). -/
def proceed (p : Nat) (s : State) : Result :=
  match s.ports[p]? with
  | none => .refused .noSuchPort
  | some x =>
    match x.pstate with
    | .idle => .next s.silent
    | .scan => if s.phase = .ready then scanStep p x s else .refused (.notEnabled s.phase)
    | .adv => if s.phase = .ready then advStep p x s else .refused (.notEnabled s.phase)
    | .enc => if s.phase = .ready then encStep p x s else .refused (.notEnabled s.phase)
    | .rel => if s.phase = .ready then relStep p x s else .refused (.notEnabled s.phase)

end Sys2Proof.Machine
end

