-- ==== Sys2Proof/Machine/External.lean ====
section
/-! DEFINITION. The external operations GENV4, ISWF and INIT (spec/44_external_ops.md). -/

namespace Sys2Proof.Machine

/-! ### GENV4 and ISWF -/

/-- GENV4 is NEXT 0 (44_external_ops.md R180). -/
def execGenv4 (s : State) : Result := acceptNext 0 s

/-- One character of the shape check (44_external_ops.md R182). -/
def charOk (payload : List Byte) (k : Nat) : Bool :=
  match payload[k]? with
  | none => false
  | some c => if isHyphenPos k then c == hyphen else isHex c

/-- The shape check: length 36, hyphens at 8, 13, 18, 23, hexadecimal digits of either case elsewhere
(44_external_ops.md R182). -/
def isWellFormed (payload : List Byte) : Bool :=
  payload.length == 36 && (List.range 36).all (charOk payload)

/-- ISWF (44_external_ops.md R182): enabled in every phase. -/
def execIswf (payload : List Byte) (s : State) : Result :=
  withIdlePort s fun p _ =>
    .next ((s.setWf p (isWellFormed payload)).respond (.bit (isWellFormed payload)))

/-! ### INIT -/

/-- The pool sizes INIT accepts: 1, 2, 4, ..., 256 (44_external_ops.md R186). -/
def poolSizeOk (n : Nat) : Bool := n != 0 && n ≤ Config.maxSlots && n &&& (n - 1) == 0

/-- Bytes 0..15 of an entropy record, the key (30_encoding.md R62). -/
def keyHalf (e : EntropyRecord) : Block := Block.tab fun i => e[i.val]

/-- Bytes 16..31 of an entropy record, the initial chaining state (30_encoding.md R62). -/
def chainHalf (e : EntropyRecord) : Block := Block.tab fun i => e[16 + i.val]

/-- A generator constructed from its entropy record, its flag free (44_external_ops.md R187, R185). -/
def builtSlot (e : EntropyRecord) : Slot :=
  { key := .written (keyHalf e), chain := .written (chainHalf e), flag := .free }

/-- What INIT's loop over the slots comes to. -/
inductive Construction where
  /-- Every generator was constructed. -/
  | built (slots : List Slot)
  /-- `raise Fatal(cause, slot)`. -/
  | failed (cause : FCause) (slot : Nat)
deriving DecidableEq, Repr

/-- INIT's loop from slot `i` on, `count` slots still to construct (44_external_ops.md R185): per slot one
draw, then CipherConstruct on its key half; the first failure ends it (R188). Also answers the supply and
the counter left over. -/
def construct (accepts : Block → Bool) : (count : Nat) → (i : Nat) → List (List Byte) → Nat →
    Construction × List (List Byte) × Nat
  | 0, _, supply, fresh => (.built [], supply, fresh)
  | count + 1, i, supply, fresh =>
    match entropyFill supply fresh with
    | (.fail, supply', fresh') => (.failed .entropyUnavailable i, supply', fresh')
    | (.filled e, supply', fresh') =>
      if accepts (keyHalf e) then
        match construct accepts count (i + 1) supply' fresh' with
        | (.built slots, rest) => (.built (builtSlot e :: slots), rest)
        | (.failed cause slot, rest) => (.failed cause slot, rest)
      else (.failed .cipherConstruct i, supply', fresh')

/-- INIT with the capability CipherConstruct given (44_external_ops.md R185, R186; 60_exceptions.md R205): the
pool-size check first, then the loop, then PHASE. -/
def initWith (accepts : Block → Bool) (s : State) : State :=
  if poolSizeOk s.nSlots then
    match construct accepts s.nSlots 0 s.supply s.fresh with
    | (.built slots, supply, fresh) => { s with slots := slots, supply := supply, fresh := fresh, phase := .ready }
    | (.failed cause slot, supply, fresh) => raiseFatal cause slot { s with supply := supply, fresh := fresh }
  else raiseFatal .configPoolSize (min s.nSlots 511) s

/-- INIT (44_external_ops.md R185): enabled in RESET only (R189); one indivisible step that ends READY or
FATAL and returns nothing (30_encoding.md R74). -/
def execInit (s : State) : Result :=
  withAnyIssuer s
    (if s.phase = .reset then .next ((initWith cipherConstruct s).respond .done)
     else .refused (.notEnabled s.phase))

end Sys2Proof.Machine
end

