-- ==== Sys2Proof/Machine/Dispatch.lean ====
section
/-! DEFINITION. One arm per operation, each one direct call of its meaning. -/

namespace Sys2Proof.Machine

/-- What an operation does, issued by `s.issuer`. -/
def exec (i : Instr) (s : State) : Host.Outcome State Fault Refusal :=
  match i with
  | .init => Sys2Proof.Machine.execInit s
  | .claim slot => Sys2Proof.Machine.execClaim slot s
  | .advance slot => Sys2Proof.Machine.execAdvance slot s
  | .encode => Sys2Proof.Machine.execEncode s
  | .release slot => Sys2Proof.Machine.execRelease slot s
  | .next start => Sys2Proof.Machine.execNext start s
  | .iswf payload => Sys2Proof.Machine.execIswf payload s
  | .genv4 => Sys2Proof.Machine.execGenv4 s

end Sys2Proof.Machine
end

