-- ==== Sys2Proof/Machine/Fetch.lean ====
section
/-! DEFINITION. How an operation reaches the engine: the next event, and the step each event is. -/

namespace Sys2Proof.Machine

/-- The next event and the state without it: the head of `inputs`, and once they are used up a free value
(20_memory.md R55; log 2). -/
def nextEvent (s : State) : Event × State :=
  match s.inputs with
  | e :: rest => (e, { s with inputs := rest })
  | [] => (Config.environment s.fresh, { s with fresh := s.fresh + 1 })

/-- Agent `a` presents a command: it is decoded and executed, or refused as reserved with no step taken
(30_encoding.md R76). -/
def present (a : Agent) (c : Command) (s : State) : Result :=
  match decode s.nSlots c with
  | .error why => .refused (.reserved why)
  | .ok i => exec i { s with issuer := a }

/-- One event is one step of the machine (20_memory.md R55). -/
def handle (e : Event) (s : State) : Result :=
  match e with
  | .command a c => present a c s
  | .proceed p => proceed p { s with issuer := .port p }
  | .hardwareReset => .next (hardwareReset s)

/-- Who issues a command of the opcode table: the host INIT, port 0 the rest (30_encoding.md R75; log 17). -/
def tableIssuer (c : Command) : Agent := if opcOf c.word = 0x1 then .host else .port 0

end Sys2Proof.Machine
end

