-- ==== Sys2Proof/Machine/Step.lean ====
section
/-! DEFINITION. One step of the machine, and where its next instruction stands. -/

namespace Sys2Proof.Machine

/-- One step: the next event, handled. -/
def step (s : State) : Host.Outcome State Fault Refusal := handle (nextEvent s).1 (nextEvent s).2

/-- The command whose bits are `w` is the next event, presented by the agent that issues it; nothing else
changes (log 17). -/
def State.withFetchWord (s : State) (nbits w : Nat) : State :=
  { s with inputs := .command (tableIssuer (tableCommand nbits w)) (tableCommand nbits w) :: s.inputs }

end Sys2Proof.Machine
end

