-- ==== Sys2Proof/Safety.lean ====
section
/-! DEFINITION. What counts as a sound state of the engine, and the vocabulary of the statements: who may issue
an operation, what is unchanged, runs without a hardware reset. -/

namespace Sys2Proof.Machine

/-! ### Issuing an operation -/

/-- Port `p`, in state `x`, is the issuing agent and is idle (70_reset_and_hazards.md R241 (a)). -/
def IssuedBy (p : Nat) (x : Port) (s : State) : Prop :=
  s.issuer = .port p ∧ s.ports[p]? = some x ∧ x.pstate = .idle

/-- The same in phase READY, where every port operation is enabled (70_reset_and_hazards.md R233). -/
def ReadyFor (p : Nat) (x : Port) (s : State) : Prop := IssuedBy p x s ∧ s.phase = .ready

/-- INIT may be issued by the host, and by an idle port, which the hardware does not prevent
(60_exceptions.md R210). -/
def MayInit (s : State) : Prop := s.issuer = .host ∨ ∃ p x, IssuedBy p x s

/-- The phases in which an operation is enabled (70_reset_and_hazards.md R233). -/
def Enabled : Instr → Phase → Bool
  | .init, ph => decide (ph = .reset)
  | .iswf _, _ => true
  | .claim _, ph => decide (ph = .ready)
  | .advance _, ph => decide (ph = .ready)
  | .encode, ph => decide (ph = .ready)
  | .release _, ph => decide (ph = .ready)
  | .next _, ph => decide (ph = .ready)
  | .genv4, ph => decide (ph = .ready)

/-! ### What a step leaves alone -/

/-- PHASE, FCAUSE and FINFO are unchanged. -/
def SameStatus (s t : State) : Prop := t.phase = s.phase ∧ t.fcause = s.fcause ∧ t.finfo = s.finfo

/-- The model's own fields but `out` are unchanged: the issuer, the outside world and the counter. -/
def SameOutside (s t : State) : Prop :=
  t.issuer = s.issuer ∧ t.inputs = s.inputs ∧ t.supply = s.supply ∧ t.fresh = s.fresh

/-- Every slot but `i` is unchanged, and so is N_SLOTS. -/
def SameSlotsBut (i : Nat) (s t : State) : Prop :=
  t.nSlots = s.nSlots ∧ ∀ j, j ≠ i → t.slots[j]? = s.slots[j]?

/-- Every port but `p` is unchanged, and so is M_PORTS. -/
def SamePortsBut (p : Nat) (s t : State) : Prop :=
  t.mPorts = s.mPorts ∧ ∀ q, q ≠ p → t.ports[q]? = s.ports[q]?

/-! ### The invariant -/

/-- OWNER[i], a ghost: the port that holds slot `i` (10_state.md R30). -/
def State.owner (i : Nat) (s : State) : Option Nat := s.ports.findIdx? fun x => decide (x.held = some i)

/-- KEY and CHAIN of a slot hold values. -/
def Slot.Built (x : Slot) : Prop := (∃ k, x.key = .written k) ∧ ∃ c, x.chain = .written c

/-- What a port's PSTATE says about its other registers (10_state.md R24, 43_arbiter.md R157): a scanning port
holds nothing and has an index in range; from adv on it holds a slot; from enc on RAW is that slot's CHAIN; in
rel STR is the encoding of RAW. -/
def PortSound (s : State) (x : Port) : Prop :=
  match x.pstate with
  | .idle => True
  | .scan => x.held = none ∧ ∃ i, x.idx = .written i ∧ i < s.nSlots
  | .adv => ∃ i, x.held = some i ∧ i < s.nSlots
  | .enc => ∃ i r, x.held = some i ∧ s.chain i = .written r ∧ x.raw = .written r
  | .rel => ∃ i r, x.held = some i ∧ s.chain i = .written r ∧ x.raw = .written r ∧ x.str = .written (encodeBlock r)

/-- The invariant of the engine. -/
structure Inv (s : State) : Prop where
  /-- A READY machine has a legal pool (44_external_ops.md R186). -/
  poolLegal : s.phase = .ready → poolSizeOk s.nSlots = true
  /-- A READY machine has constructed every generator (44_external_ops.md R185). -/
  built : s.phase = .ready → ∀ x ∈ s.slots, x.Built
  /-- Before READY and in FATAL every flag is free (10_state.md R26, 60_exceptions.md R206). -/
  flagsFree : s.phase ≠ .ready → ∀ x ∈ s.slots, x.flag = .free
  /-- Before READY and in FATAL every port is idle and holds nothing (70_reset_and_hazards.md R233). -/
  portsIdle : s.phase ≠ .ready → ∀ x ∈ s.ports, x.pstate = .idle ∧ x.held = none
  /-- FLAG[i] is 1 iff slot i is held (10_state.md R15 (b)). -/
  flagIffHeld : ∀ i, s.flag i = some .claimed ↔ ∃ p, s.held p = some i
  /-- A slot is held by at most one port (10_state.md R14). -/
  exclusive : ∀ p q i, s.held p = some i → s.held q = some i → p = q
  /-- IDX stays in 0 .. N_SLOTS−1 (10_state.md R23). -/
  indexInRange : ∀ x ∈ s.ports, ∀ i, x.idx = .written i → i < s.nSlots
  /-- Each port's registers fit its PSTATE. -/
  portsSound : ∀ x ∈ s.ports, PortSound s x
  /-- STR holds identifiers of the right shape only (44_external_ops.md R181). -/
  identsWellFormed : ∀ x ∈ s.ports, ∀ u, x.str = .written u → isWellFormed u.toList = true
  /-- FCAUSE ≠ 0 exactly in FATAL (60_exceptions.md R206); FINFO = 0 where FCAUSE = 0 (10_state.md R18). -/
  faultRecorded : s.phase = .fatal ↔ s.fcause ≠ .none
  infoZero : s.fcause = .none → s.finfo = 0

/-! ### Runs -/

/-- The event the next step handles. -/
def State.event (s : State) : Event := (nextEvent s).1

/-- The agent whose step the next step is; none for a hardware reset. -/
def State.actor (s : State) : Option Agent :=
  match s.event with
  | .command a _ => some a
  | .proceed p => some (.port p)
  | .hardwareReset => none

/-- The next step, if it answers a next state, is an ADVANCE of slot `i`, by itself or inside a NEXT. -/
def advances (i : Nat) (s : State) : Bool :=
  match s.event with
  | .command _ c =>
    match decode s.nSlots c with
    | .ok (.advance slot) => slot.toNat == i
    | _ => false
  | .proceed p =>
    match s.ports[p]? with
    | some x => x.pstate == .adv && x.held == some i
    | none => false
  | .hardwareReset => false

/-- `n` steps, none of them a hardware reset, and how many of them advance slot `i`. -/
def countAdvances (i : Nat) : Nat → State → Option (Nat × State)
  | 0, s => some (0, s)
  | n + 1, s =>
    match s.event, step s with
    | .hardwareReset, _ => none
    | _, .next t => (countAdvances i n t).map fun (c, u) => (c + (advances i s).toNat, u)
    | _, .fault _ => none
    | _, .refused _ => none

/-- The same machine with every KEY erased: what is left if no key byte can be seen. -/
def eraseKeys (s : State) : State := { s with slots := s.slots.map fun x => { x with key := .unwritten } }

/-- An outcome with its next state's keys erased. -/
def eraseResult : Result → Result
  | .next t => .next (eraseKeys t)
  | .fault f => .fault f
  | .refused r => .refused r

end Sys2Proof.Machine
end

