-- ==== Sys2Proof/Certificates/Slice0/Obligations.lean ====
section
/-! DEFINITION. The statements for the provers, in the order of spec/'s files. A rule R<n> is one of spec/'s
numbered rules; "log <n>" is notes/assumptions/<n>.md. -/

open Sys2Proof Sys2Proof.Machine

/-! ### Command words (30_encoding.md) -/

/-- Every operation a pool of `n` slots admits is decoded back from its command, operand and payload whole.
NEXT 0 comes back under its other name GENV4 (R79), which is the model's choice of name (log 5). -/
def Obligations.DecodeInvertsEncode : Prop :=
  ∀ (n : Nat) (i : Instr), i.wf n = true → decode n (encode i) = .ok i.decodedName

/-- What the decoder accepts is admissible, and its command is the one it was read from: no bit is ignored. -/
def Obligations.EncodeInvertsDecode : Prop :=
  ∀ (n : Nat) (c : Command) (i : Instr), decode n c = .ok i → i.wf n = true ∧ encode i = c

/-- R76. The reserved command words, and only they (the payload being as long as the word says), name no
operation; presented to a machine, they are refused and no step is taken. -/
def Obligations.ReservedWordsNameNothing : Prop :=
  ∀ (s : State) (a : Agent) (c : Command) (rest : List Event),
    s.inputs = .command a c :: rest → c.payload.length = payloadLength c.word →
    ((opcOf c.word = 0x0 ∨ 0x8 ≤ (opcOf c.word).toNat ∨ zeroOf c.word ≠ 0 ∨
        ((opcOf c.word = 0x1 ∨ opcOf c.word = 0x4) ∧ argOf c.word ≠ 0) ∨
        ((opcOf c.word = 0x2 ∨ opcOf c.word = 0x3 ∨ opcOf c.word = 0x5) ∧ s.nSlots ≤ (argOf c.word).toNat)) ↔
      ∃ why, decode s.nSlots c = .error why) ∧
    ((∃ why, decode s.nSlots c = .error why) → ∃ why, step s = .refused (.reserved why))

/-- Words of the decoding table of 95_test_vectors.md section 8 (N_SLOTS = 4), one of each opcode and each kind
of reserved word. -/
def Obligations.TableWordsDecode : Prop :=
  decode 4 ⟨0x1000, []⟩ = .ok .init ∧ decode 4 ⟨0x2003, []⟩ = .ok (.claim 3) ∧
  decode 4 ⟨0x3002, []⟩ = .ok (.advance 2) ∧ decode 4 ⟨0x4000, []⟩ = .ok .encode ∧
  decode 4 ⟨0x5001, []⟩ = .ok (.release 1) ∧ decode 4 ⟨0x6001, []⟩ = .ok (.next 1) ∧
  decode 4 ⟨0x60FF, []⟩ = .ok (.next 255) ∧ decode 4 ⟨0x6000, []⟩ = .ok .genv4 ∧
  decode 4 ⟨0x7000, []⟩ = .ok (.iswf []) ∧ decode 4 ⟨0x7002, [0x2D, 0x61]⟩ = .ok (.iswf [0x2D, 0x61]) ∧
  decode 4 ⟨0x1001, []⟩ = .error .nonzeroArg ∧ decode 4 ⟨0x2004, []⟩ = .error .reservedSlot ∧
  decode 4 ⟨0x4001, []⟩ = .error .nonzeroArg ∧ decode 4 ⟨0x6100, []⟩ = .error .nonzeroZero ∧
  decode 4 ⟨0x0000, []⟩ = .error .reservedOpcode ∧ decode 4 ⟨0x8000, []⟩ = .error .reservedOpcode

/-- A step runs the decoded instruction: the presented command leaves the input, its issuer is recorded, and
the step is `exec` of what it decodes to. -/
def Obligations.StepRunsDecodedInstruction : Prop :=
  ∀ (s : State) (a : Agent) (c : Command) (rest : List Event) (i : Instr),
    s.inputs = .command a c :: rest → decode s.nSlots c = .ok i →
    step s = exec i { s with inputs := rest, issuer := a }

/-- The other steps: a scheduled port moves, a hardware reset happens, and once the inputs are used up the
outside world does something no rule constrains (log 2). -/
def Obligations.StepHandlesOtherEvents : Prop :=
  (∀ (s : State) (p : Nat) (rest : List Event), s.inputs = .proceed p :: rest →
    step s = proceed p { s with inputs := rest, issuer := .port p }) ∧
  (∀ (s : State) (rest : List Event), s.inputs = .hardwareReset :: rest →
    step s = .next (hardwareReset { s with inputs := rest })) ∧
  (∀ s : State, s.inputs = [] →
    step s = handle (Config.environment s.fresh) { s with fresh := s.fresh + 1 })

/-! ### State and its encodings (10_state.md) -/

/-- The codes of FCAUSE, FLAG and PSTATE (R18, R13, R24). -/
def Obligations.StatusCodes : Prop :=
  (FCause.none.code = 0 ∧ FCause.configPoolSize.code = 1 ∧ FCause.entropyUnavailable.code = 2 ∧
    FCause.cipherConstruct.code = 3) ∧
  (Flag.free.code = 0 ∧ Flag.claimed.code = 1) ∧
  (PState.idle.code = 0 ∧ PState.scan.code = 1 ∧ PState.adv.code = 2 ∧ PState.enc.code = 3 ∧ PState.rel.code = 4)

/-- Reading an unwritten register is a fault, never a read of zero: a caller taking STR[p] or WF[p] too early
(R27, U12); a written one is read. -/
def Obligations.UnwrittenLatchesFault : Prop :=
  ∀ (s : State) (p : Nat) (x : Port), s.ports[p]? = some x →
    (x.str = .unwritten → s.takeStr p = .error .unwrittenRead) ∧
    (∀ u, x.str = .written u → s.takeStr p = .ok u) ∧
    (x.wf = .unwritten → s.takeWf p = .error .unwrittenRead) ∧
    (∀ b, x.wf = .written b → s.takeWf p = .ok b)

/-- R17. PHASE is coded 0, 1, 2 and never 3. Its only transitions are RESET → READY and RESET → FATAL, both made
by INIT, and any → RESET, made by a hardware reset. -/
def Obligations.PhaseTransitions : Prop :=
  (Phase.reset.code = 0 ∧ Phase.ready.code = 1 ∧ Phase.fatal.code = 2 ∧ ∀ ph : Phase, ph.code ≠ 3) ∧
  ∀ s t : State, step s = .next t →
    (s.event = .hardwareReset ∧ t.phase = .reset) ∨
    (s.event ≠ .hardwareReset ∧ t.phase = s.phase ∧ ¬ (∃ a c, s.event = .command a c ∧ decode s.nSlots c = .ok .init)) ∨
    (s.phase = .reset ∧ (t.phase = .ready ∨ t.phase = .fatal) ∧
      ∃ a c, s.event = .command a c ∧ decode s.nSlots c = .ok .init)

/-- KEY is "never written again" after INIT (R12): every step of a READY machine but a hardware reset leaves
every KEY as it was. -/
def Obligations.KeysNeverRewritten : Prop :=
  ∀ (s t : State) (i : Nat), s.phase = .ready → s.event ≠ .hardwareReset → step s = .next t → t.key i = s.key i

/-- No operation but ADVANCE (and NEXT's adv step) reads any KEY (R12): two machines that differ in their keys
alone answer alike, and stay alike but for their keys. -/
def Obligations.KeysInvisible : Prop :=
  ∀ s s' : State, eraseKeys s = eraseKeys s' →
    (∀ i : Instr, (∀ slot, i ≠ .advance slot) → eraseResult (exec i s) = eraseResult (exec i s')) ∧
    (∀ p : Nat, (∀ x, s.ports[p]? = some x → x.pstate ≠ .adv) → eraseResult (proceed p s) = eraseResult (proceed p s'))

/-- N_SLOTS and M_PORTS are fixed for the whole life of the machine (R3, R5, R15 (a)). -/
def Obligations.ParametersFixed : Prop :=
  ∀ s t : State, step s = .next t → t.nSlots = s.nSlots ∧ t.mPorts = s.mPorts

/-! ### Atomicity, exclusion and progress (20_memory.md) -/

/-- R44 and R45's primitives. CAS on a flag that is 0 sets it and returns true; on one that is 1 it changes
nothing and returns false; STORE_REL writes 0 whatever the flag was; neither touches anything else. -/
def Obligations.AtomicPrimitives : Prop :=
  ∀ (s : State) (i : Nat),
    (s.flag i = some .free →
      (casFlag i s).1 = true ∧ (casFlag i s).2.flag i = some .claimed ∧ SameSlotsBut i s (casFlag i s).2 ∧
      (casFlag i s).2.key i = s.key i ∧ (casFlag i s).2.chain i = s.chain i ∧
      (casFlag i s).2.ports = s.ports ∧ SameStatus s (casFlag i s).2) ∧
    (s.flag i = some .claimed → casFlag i s = (false, s)) ∧
    (i < s.nSlots →
      (storeRel i s).flag i = some .free ∧ SameSlotsBut i s (storeRel i s) ∧ (storeRel i s).key i = s.key i ∧
      (storeRel i s).chain i = s.chain i ∧ (storeRel i s).ports = s.ports ∧ SameStatus s (storeRel i s))

/-- The invariant holds after reset, whatever the configured pool size and number of ports. -/
def Obligations.InvariantAtReset : Prop :=
  (∀ n m : Nat, Inv (State.resetWith n m)) ∧ Inv State.reset

/-- Every step keeps the invariant: legal pool, constructed generators, flag 1 iff held, one holder per slot,
index in range, each port's registers fit its PSTATE, identifiers well formed, fault recorded (R14, R15, R23,
R24, R48, R181, R206). It holds of every state that meets it, whatever the outside world does. -/
def Obligations.InvariantKept : Prop :=
  ∀ s t : State, Inv s → step s = .next t → Inv t

/-- Only the holder of a slot changes its CHAIN (R14, R28): in a READY machine, a step other than a hardware
reset that changes CHAIN[i] is a step of a port that holds slot i. -/
def Obligations.OnlyTheHolderAdvances : Prop :=
  ∀ (s t : State) (i : Nat), s.phase = .ready → s.event ≠ .hardwareReset → step s = .next t →
    t.chain i ≠ s.chain i → ∃ p, s.actor = some (.port p) ∧ s.held p = some i

/-- How a flag can change in a READY machine (R13, R48): 0 → 1 by a port that then holds the slot, 1 → 0 by the
port that held it, and then holds nothing. -/
def Obligations.FlagsChangeWithTheirHolder : Prop :=
  ∀ (s t : State) (i : Nat), Inv s → s.phase = .ready → s.event ≠ .hardwareReset → step s = .next t →
    t.flag i ≠ s.flag i →
    ∃ p, s.actor = some (.port p) ∧
      ((s.flag i = some .free ∧ t.flag i = some .claimed ∧ s.held p = none ∧ t.held p = some i) ∨
       (s.flag i = some .claimed ∧ t.flag i = some .free ∧ s.held p = some i ∧ t.held p = none))

/-- At most min(N_SLOTS, M_PORTS) flags are 1, and where M_PORTS ≤ N_SLOTS a port that holds nothing finds at
least one flag 0 (R163). -/
def Obligations.ClaimedFlagsBounded : Prop :=
  ∀ s : State, Inv s →
    (s.slots.filter fun x => x.flag == .claimed).length ≤ min s.nSlots s.mPorts ∧
    (s.mPorts ≤ s.nSlots → ∀ (p : Nat) (x : Port), s.ports[p]? = some x → x.held = none →
      ∃ i, s.flag i = some .free)

/-- A port's registers are private to it (R214): a step of another agent, other than a hardware reset, leaves
them alone. -/
def Obligations.PortsArePrivate : Prop :=
  ∀ (s t : State) (a : Agent) (p : Nat), step s = .next t → s.actor = some a → a ≠ .port p →
    t.ports[p]? = s.ports[p]?

/-- A port inside NEXT always has an enabled step (R56 (b), R161): it is never stuck. -/
def Obligations.NextIsNeverStuck : Prop :=
  ∀ (s : State) (p : Nat) (x : Port), Inv s → s.ports[p]? = some x → x.pstate ≠ .idle →
    ∃ t, proceed p s = .next t

/-- With every flag taken and nobody releasing, a scanning port spins for any number of steps and changes
nothing shared (R56, R154, R243; V6.6). -/
def Obligations.ScanSpinsWhileAllTaken : Prop :=
  ∀ (n : Nat) (s : State) (p i : Nat) (x : Port) (rest : List Event),
    s.phase = .ready → s.ports[p]? = some x → x.pstate = .scan → x.idx = .written i →
    (∀ j, s.flag j ≠ some .free) → s.inputs = List.replicate n (.proceed p) ++ rest →
    ∃ t, Sys2Proof.core.run n s = .next t ∧ t.slots = s.slots ∧ t.inputs = rest ∧
      ∃ j, t.ports[p]? = some { x with idx := .written j }

/-! ### ADVANCE and the cipher (40_generator_advance.md, 41_cipher_aes128.md) -/

/-- ADVANCE by the slot's holder completes (R91): CHAIN[s] and RAW[p] become BlockEncrypt(KEY[s], CHAIN[s]),
which is returned; KEY, FLAG, HELD, every other slot and port and the status are unchanged. -/
def Obligations.AdvanceEncryptsTheChain : Prop :=
  ∀ (s : State) (p : Nat) (x : Port) (slot : Byte) (k c : Block),
    ReadyFor p x s → x.held = some slot.toNat → s.key slot.toNat = .written k → s.chain slot.toNat = .written c →
    ∃ t, exec (.advance slot) s = .next t ∧ t.chain slot.toNat = .written (blockEncrypt k c) ∧
      t.key slot.toNat = .written k ∧ t.flag slot.toNat = s.flag slot.toNat ∧
      t.ports[p]? = some { x with raw := .written (blockEncrypt k c) } ∧
      t.out = some (.port p, .block (blockEncrypt k c)) ∧
      SameStatus s t ∧ SameOutside s t ∧ SameSlotsBut slot.toNat s t ∧ SamePortsBut p s t

/-- R92. After any number of steps of a READY machine, whichever ports take them, CHAIN[i] is the c-fold
encryption of what it was, c being the number of ADVANCE steps on slot i among them; and the next ADVANCE step on
slot i, whichever port takes it, yields the (c + 1)-fold encryption in that port's RAW. -/
def Obligations.SlotStream : Prop :=
  ∀ (n i c : Nat) (s t : State) (k x : Block),
    s.phase = .ready → s.key i = .written k → s.chain i = .written x → countAdvances i n s = some (c, t) →
    t.chain i = .written ((blockEncrypt k)^[c] x) ∧ t.key i = .written k ∧
    ∀ u : State, advances i t = true → step t = .next u →
      ∃ p y, t.actor = some (.port p) ∧ u.ports[p]? = some y ∧ y.raw = .written ((blockEncrypt k)^[c + 1] x)

/-- R121. Under every key, AES-128 encryption is a bijection of the 16-byte blocks. -/
def Obligations.CipherIsBijective : Prop :=
  ∀ k : Block, Function.Bijective (blockEncrypt k)

/-- The stream of a slot is purely periodic: S_0 recurs, and no value repeats before it does (R96). -/
def Obligations.StreamIsPurelyPeriodic : Prop :=
  ∀ k x : Block, ∃ n, 0 < n ∧ (blockEncrypt k)^[n] x = x ∧
    ∀ i j, i < j → j < n → (blockEncrypt k)^[i] x ≠ (blockEncrypt k)^[j] x

/-- The S-box table is its algebraic definition: the affine map of the inverse in GF(2^8), 0 mapped to 0 (R115),
and the checks of R120 hold. -/
def Obligations.SboxIsAlgebraic : Prop :=
  sbox 0 = sboxAffine 0 ∧ (∀ b : Byte, b ≠ 0 → ∃ x, gfMul b x = 1 ∧ sbox b = sboxAffine x) ∧
  xtime 0x57 = 0xAE ∧ xtime 0xAE = 0x47 ∧ gfMul 0x57 0x13 = 0xFE ∧ gfMul 0x57 0x83 = 0xC1 ∧
  sbox 0x00 = 0x63 ∧ sbox 0x53 = 0xED

/-- The five vectors A1 to A5 (R122). -/
def Obligations.CipherVectors : Prop :=
  blockEncrypt #v[0x00, 0x01, 0x02, 0x03, 0x04, 0x05, 0x06, 0x07, 0x08, 0x09, 0x0a, 0x0b, 0x0c, 0x0d, 0x0e, 0x0f]
      #v[0x00, 0x11, 0x22, 0x33, 0x44, 0x55, 0x66, 0x77, 0x88, 0x99, 0xaa, 0xbb, 0xcc, 0xdd, 0xee, 0xff] =
    #v[0x69, 0xc4, 0xe0, 0xd8, 0x6a, 0x7b, 0x04, 0x30, 0xd8, 0xcd, 0xb7, 0x80, 0x70, 0xb4, 0xc5, 0x5a] ∧
  blockEncrypt #v[0x2b, 0x7e, 0x15, 0x16, 0x28, 0xae, 0xd2, 0xa6, 0xab, 0xf7, 0x15, 0x88, 0x09, 0xcf, 0x4f, 0x3c]
      #v[0x32, 0x43, 0xf6, 0xa8, 0x88, 0x5a, 0x30, 0x8d, 0x31, 0x31, 0x98, 0xa2, 0xe0, 0x37, 0x07, 0x34] =
    #v[0x39, 0x25, 0x84, 0x1d, 0x02, 0xdc, 0x09, 0xfb, 0xdc, 0x11, 0x85, 0x97, 0x19, 0x6a, 0x0b, 0x32] ∧
  blockEncrypt (Block.tab fun _ => 0) (Block.tab fun _ => 0) =
    #v[0x66, 0xe9, 0x4b, 0xd4, 0xef, 0x8a, 0x2c, 0x3b, 0x88, 0x4c, 0xfa, 0x59, 0xca, 0x34, 0x2b, 0x2e] ∧
  blockEncrypt #v[0x00, 0x01, 0x02, 0x03, 0x04, 0x05, 0x06, 0x07, 0x08, 0x09, 0x0a, 0x0b, 0x0c, 0x0d, 0x0e, 0x0f]
      (Block.tab fun _ => 0) =
    #v[0xc6, 0xa1, 0x3b, 0x37, 0x87, 0x8f, 0x5b, 0x82, 0x6f, 0x4f, 0x81, 0x62, 0xa1, 0xc8, 0xd8, 0x79] ∧
  blockEncrypt #v[0x00, 0x01, 0x02, 0x03, 0x04, 0x05, 0x06, 0x07, 0x08, 0x09, 0x0a, 0x0b, 0x0c, 0x0d, 0x0e, 0x0f]
      #v[0x69, 0xc4, 0xe0, 0xd8, 0x6a, 0x7b, 0x04, 0x30, 0xd8, 0xcd, 0xb7, 0x80, 0x70, 0xb4, 0xc5, 0x5a] =
    #v[0x4f, 0x63, 0x8c, 0x73, 0x5f, 0x61, 0x43, 0x01, 0x56, 0x78, 0x24, 0xb1, 0xa2, 0x1a, 0x4f, 0x6a]

/-! ### ENCODE and the identifier (42_encoder.md, 30_encoding.md Part A) -/

/-- ENCODE completes wherever RAW[p] is written (R131), with or without a claim (R136): STR[p] becomes
Encode(RAW[p]) and is returned; nothing else changes. -/
def Obligations.EncodeFormatsTheLatch : Prop :=
  ∀ (s : State) (p : Nat) (x : Port) (r : Block), ReadyFor p x s → x.raw = .written r →
    ∃ t, exec .encode s = .next t ∧ t.ports[p]? = some { x with str := .written (encodeBlock r) } ∧
      t.out = some (.port p, .ident (encodeBlock r)) ∧ t.slots = s.slots ∧
      SameStatus s t ∧ SameOutside s t ∧ SamePortsBut p s t

/-- R64. HEX[n] is the n-th character of `0123456789abcdef`, as ASCII bytes; none is an uppercase letter. -/
def Obligations.HexAlphabet : Prop :=
  (∀ n : Nibble, ("0123456789abcdef".toList[n.toNat]?).map (fun ch => ch.toNat) = some (hexDigit n).toNat) ∧
  (∀ n : Nibble, n.toNat ≤ 9 → (hexDigit n).toNat = 0x30 + n.toNat) ∧
  (∀ n : Nibble, 10 ≤ n.toNat → (hexDigit n).toNat = 0x61 + (n.toNat - 10)) ∧
  (∀ n : Nibble, ¬ (0x41 ≤ (hexDigit n).toNat ∧ (hexDigit n).toNat ≤ 0x5A)) ∧
  hyphen = 0x2D ∧ hexDigit 4 = 0x34

/-- Where each raw byte's two characters stand and in which order (R65, R66, R131): pos(i) and pos(i)+1, low
nibble first for bytes 0..3, high nibble first for bytes 4..15, byte 8 with its variant bits forced; byte 6's
first character is `4`. -/
def Obligations.EncodeCharacters : Prop :=
  ∀ (r : Block) (i : Nat) (hi : i < 16),
    let b := if i = 8 then (r[i] &&& 0x3F) ||| 0x80 else r[i]
    (encodeBlock r)[charPos i]? =
      some (if i ≤ 3 then hexDigit (lo4 b) else if i = 6 then 0x34 else hexDigit (hi4 b)) ∧
    (encodeBlock r)[charPos i + 1]? = some (if i ≤ 3 then hexDigit (hi4 b) else hexDigit (lo4 b))

/-- R68. Character 14 is `4` whatever byte 6 holds, character 15 is its low nibble, and its high nibble appears
nowhere: changing it alone changes no character. -/
def Obligations.VersionCharacter : Prop :=
  ∀ r : Block, (encodeBlock r)[14] = 0x34 ∧ (encodeBlock r)[15] = hexDigit (lo4 r[6]) ∧
    ∀ b : Byte, lo4 b = lo4 r[6] → encodeBlock (r.set 6 b) = encodeBlock r

/-- R69. Characters 19 and 20 show byte 8 with its two top bits forced to 10: character 19 is HEX of 0b10 ++
r[8][5:4], one of `8`, `9`, `a`, `b`; bits 7 and 6 of byte 8 are discarded. -/
def Obligations.VariantCharacters : Prop :=
  ∀ r : Block, (encodeBlock r)[19] = hexDigit (hi4 ((r[8] &&& 0x3F) ||| 0x80)) ∧
    (encodeBlock r)[20] = hexDigit (lo4 ((r[8] &&& 0x3F) ||| 0x80)) ∧
    hi4 ((r[8] &&& 0x3F) ||| 0x80) = (2#2 ++ r[8].extractLsb' 4 2 : Nibble) ∧
    (encodeBlock r)[19] ∈ ([0x38, 0x39, 0x61, 0x62] : List Byte) ∧
    ∀ b : Byte, b.extractLsb' 0 6 = r[8].extractLsb' 0 6 → encodeBlock (r.set 8 b) = encodeBlock r

/-- R137, the format theorem: hyphens exactly at 8, 13, 18, 23, every other character a lowercase hexadecimal
digit, `4` at 14, one of `8`, `9`, `a`, `b` at 19; hence ISWF accepts it. -/
def Obligations.FormatTheorem : Prop :=
  ∀ r : Block, (encodeBlock r).toList.length = 36 ∧
    (∀ (k : Nat) (hk : k < 36), (encodeBlock r)[k] = 0x2D ↔ (k = 8 ∨ k = 13 ∨ k = 18 ∨ k = 23)) ∧
    (∀ (k : Nat) (hk : k < 36), ¬ (k = 8 ∨ k = 13 ∨ k = 18 ∨ k = 23) → ∃ n : Nibble, (encodeBlock r)[k] = hexDigit n) ∧
    (encodeBlock r)[14] = 0x34 ∧ (encodeBlock r)[19] ∈ ([0x38, 0x39, 0x61, 0x62] : List Byte) ∧
    isWellFormed (encodeBlock r).toList = true

/-- R138, injectivity up to the fixed bits: two blocks have the same identifier iff they agree on every bit
other than r[6][7:4] and r[8][7:6]. -/
def Obligations.EncodeForgetsExactlySixBits : Prop :=
  ∀ r r' : Block, encodeBlock r = encodeBlock r' ↔
    (∀ (i : Nat) (hi : i < 16), i ≠ 6 → i ≠ 8 → r[i] = r'[i]) ∧
    r[6].extractLsb' 0 4 = r'[6].extractLsb' 0 4 ∧ r[8].extractLsb' 0 6 = r'[8].extractLsb' 0 6

/-! ### CLAIM, RELEASE, NEXT (43_arbiter.md) -/

/-- CLAIM of a free slot by a port that holds nothing completes with 1 (R151): FLAG[s] and HELD[p] are written,
KEY and CHAIN of the slot, every other slot and port and the status are unchanged. -/
def Obligations.ClaimOfFreeSlotSucceeds : Prop :=
  ∀ (s : State) (p : Nat) (x : Port) (slot : Byte), ReadyFor p x s → x.held = none →
    s.flag slot.toNat = some .free →
    ∃ t, exec (.claim slot) s = .next t ∧ t.flag slot.toNat = some .claimed ∧
      t.key slot.toNat = s.key slot.toNat ∧ t.chain slot.toNat = s.chain slot.toNat ∧
      t.ports[p]? = some { x with held := some slot.toNat } ∧ t.out = some (.port p, .bit true) ∧
      SameStatus s t ∧ SameOutside s t ∧ SameSlotsBut slot.toNat s t ∧ SamePortsBut p s t

/-- CLAIM of a claimed slot completes with 0 and "has no effect at all" (R151 (c)). -/
def Obligations.ClaimOfTakenSlotFails : Prop :=
  ∀ (s : State) (p : Nat) (x : Port) (slot : Byte), ReadyFor p x s → x.held = none →
    s.flag slot.toNat = some .claimed →
    exec (.claim slot) s = .next { s with out := some (.port p, .bit false) }

/-- RELEASE by the slot's holder completes (R153): FLAG[s] is 0, HELD[p] none; RAW, STR, KEY, CHAIN, every other
slot and port and the status are unchanged. -/
def Obligations.ReleaseFreesTheSlot : Prop :=
  ∀ (s : State) (p : Nat) (x : Port) (slot : Byte), ReadyFor p x s → x.held = some slot.toNat →
    slot.toNat < s.nSlots →
    ∃ t, exec (.release slot) s = .next t ∧ t.flag slot.toNat = some .free ∧
      t.key slot.toNat = s.key slot.toNat ∧ t.chain slot.toNat = s.chain slot.toNat ∧
      t.ports[p]? = some { x with held := none } ∧ t.out = some (.port p, .done) ∧
      SameStatus s t ∧ SameOutside s t ∧ SameSlotsBut slot.toNat s t ∧ SamePortsBut p s t

/-- NEXT, and GENV4 as NEXT 0, are accepted from a port that holds nothing (R157, R180): IDX[p] becomes start &
MASK and PSTATE[p] SCAN; nothing else changes and nothing is returned yet. -/
def Obligations.NextIsAccepted : Prop :=
  ∀ (s : State) (p : Nat) (x : Port) (start : Byte), ReadyFor p x s → x.held = none →
    (∃ t, exec (.next start) s = .next t ∧
      t.ports[p]? = some { x with idx := .written (start.toNat &&& (s.nSlots - 1)), pstate := .scan } ∧
      t.out = none ∧ t.slots = s.slots ∧ SameStatus s t ∧ SameOutside s t ∧ SamePortsBut p s t) ∧
    (∃ t, exec .genv4 s = .next t ∧
      t.ports[p]? = some { x with idx := .written 0, pstate := .scan } ∧
      t.out = none ∧ t.slots = s.slots ∧ SameStatus s t ∧ SameOutside s t ∧ SamePortsBut p s t)

/-- The scan step (R157): at a free slot the port claims it and goes to ADV; otherwise only IDX[p] moves, to
(IDX[p] + 1) & MASK, and the port stays in SCAN. -/
def Obligations.ScanStep : Prop :=
  ∀ (s : State) (p i : Nat) (x : Port) (rest : List Event), s.inputs = .proceed p :: rest →
    s.phase = .ready → s.ports[p]? = some x → x.pstate = .scan → x.idx = .written i →
    (s.flag i = some .free → ∃ t, step s = .next t ∧ t.flag i = some .claimed ∧ t.key i = s.key i ∧
      t.chain i = s.chain i ∧ t.ports[p]? = some { x with held := some i, pstate := .adv } ∧ t.out = none ∧
      SameStatus s t ∧ SameSlotsBut i s t ∧ SamePortsBut p s t ∧ t.inputs = rest) ∧
    (s.flag i ≠ some .free → ∃ t, step s = .next t ∧ t.slots = s.slots ∧
      t.ports[p]? = some { x with idx := .written ((i + 1) &&& (s.nSlots - 1)) } ∧ t.out = none ∧
      SameStatus s t ∧ SamePortsBut p s t ∧ t.inputs = rest)

/-- The adv, enc and rel steps (R157): the effects of ADVANCE HELD[p], ENCODE and RELEASE HELD[p]; the last
returns STR[p] to the caller. -/
def Obligations.AdvEncRelSteps : Prop :=
  ∀ (s : State) (p : Nat) (x : Port) (rest : List Event), s.inputs = .proceed p :: rest →
    s.phase = .ready → s.ports[p]? = some x →
    (∀ i k c, x.pstate = .adv → x.held = some i → s.key i = .written k → s.chain i = .written c →
      ∃ t, step s = .next t ∧ t.chain i = .written (blockEncrypt k c) ∧ t.key i = .written k ∧
        t.flag i = s.flag i ∧ t.ports[p]? = some { x with raw := .written (blockEncrypt k c), pstate := .enc } ∧
        t.out = none ∧ SameStatus s t ∧ SameSlotsBut i s t ∧ SamePortsBut p s t ∧ t.inputs = rest) ∧
    (∀ r, x.pstate = .enc → x.raw = .written r →
      ∃ t, step s = .next t ∧ t.ports[p]? = some { x with str := .written (encodeBlock r), pstate := .rel } ∧
        t.out = none ∧ t.slots = s.slots ∧ SameStatus s t ∧ SamePortsBut p s t ∧ t.inputs = rest) ∧
    (∀ i u, x.pstate = .rel → x.held = some i → i < s.nSlots → x.str = .written u →
      ∃ t, step s = .next t ∧ t.flag i = some .free ∧ t.key i = s.key i ∧ t.chain i = s.chain i ∧
        t.ports[p]? = some { x with held := none, pstate := .idle } ∧ t.out = some (.port p, .ident u) ∧
        SameStatus s t ∧ SameSlotsBut i s t ∧ SamePortsBut p s t ∧ t.inputs = rest)

/-- The scan order (R155, R80): in a legal pool `start & MASK` is start mod N_SLOTS and `(i + 1) & MASK` is the
next slot with wraparound from N_SLOTS − 1 to 0; the index never leaves the pool (R159). -/
def Obligations.ScanIndexArithmetic : Prop :=
  ∀ (s : State) (start : Byte) (i : Nat), poolSizeOk s.nSlots = true →
    startIndex start s = start.toNat % s.nSlots ∧ startIndex start s < s.nSlots ∧
    nextIndex i s = (i + 1) % s.nSlots ∧ nextIndex i s < s.nSlots ∧
    (i + 1 = s.nSlots → nextIndex i s = 0) ∧ (i + 1 < s.nSlots → nextIndex i s = i + 1)

/-- A whole NEXT with no other agent stepping (R157, R252, R162): if its first k − 1 attempts find their flags
taken and the k-th finds slot i free, it takes k + 4 steps, returns Encode(BlockEncrypt(KEY[i], CHAIN[i])),
leaves CHAIN[i] advanced once, every flag as before, every other slot and port alone, and the port idle. -/
def Obligations.NextTakesKPlusFourSteps : Prop :=
  ∀ (k : Nat) (s : State) (p i : Nat) (x : Port) (start : Byte) (kb c : Block) (rest : List Event),
    0 < k → s.phase = .ready → s.ports[p]? = some x → x.pstate = .idle → x.held = none →
    s.inputs = .command (.port p) ⟨commandWord 0x6 start, []⟩ :: (List.replicate (k + 3) (.proceed p) ++ rest) →
    i = (fun j => nextIndex j s)^[k - 1] (startIndex start s) →
    (∀ j, j < k - 1 → s.flag ((fun j => nextIndex j s)^[j] (startIndex start s)) = some .claimed) →
    s.flag i = some .free → s.key i = .written kb → s.chain i = .written c →
    ∃ t, Sys2Proof.core.run (k + 4) s = .next t ∧
      t.out = some (.port p, .ident (encodeBlock (blockEncrypt kb c))) ∧
      t.chain i = .written (blockEncrypt kb c) ∧ t.key i = .written kb ∧ (∀ j, t.flag j = s.flag j) ∧
      t.ports[p]? = some { x with
        idx := .written i, raw := .written (blockEncrypt kb c), str := .written (encodeBlock (blockEncrypt kb c)) } ∧
      SameStatus s t ∧ SameSlotsBut i s t ∧ SamePortsBut p s t ∧ t.inputs = rest

/-! ### GENV4, ISWF, INIT (44_external_ops.md) -/

/-- R180. GENV4 is NEXT 0: the same command word 0x6000, and the same step in every state. -/
def Obligations.Genv4IsNextZero : Prop :=
  encode .genv4 = encode (.next 0) ∧ (encode .genv4).word = 0x6000 ∧
  ∀ s : State, exec .genv4 s = exec (.next 0) s

/-- Every identifier an ENCODE or a completed NEXT or GENV4 returns has the shape ISWF accepts (R181). -/
def Obligations.ReturnedIdentifiersWellFormed : Prop :=
  ∀ (s t : State) (a : Agent) (u : Identifier), Inv s → step s = .next t → t.out = some (a, .ident u) →
    isWellFormed u.toList = true

/-- ISWF completes in every phase (R182): WF[p] is 1 iff the payload has length 36, `-` at 8, 13, 18, 23 and a
hexadecimal digit of either case everywhere else; it is returned, and nothing else changes. -/
def Obligations.IswfChecksTheShape : Prop :=
  ∀ (s : State) (p : Nat) (x : Port) (payload : List Byte), IssuedBy p x s →
    ∃ t b, exec (.iswf payload) s = .next t ∧
      (b = true ↔ payload.length = 36 ∧ ∀ (k : Nat) (ch : Byte), payload[k]? = some ch →
        if k = 8 ∨ k = 13 ∨ k = 18 ∨ k = 23 then ch = 0x2D
        else (0x30 ≤ ch.toNat ∧ ch.toNat ≤ 0x39) ∨ (0x41 ≤ ch.toNat ∧ ch.toNat ≤ 0x46) ∨
          (0x61 ≤ ch.toNat ∧ ch.toNat ≤ 0x66)) ∧
      t.ports[p]? = some { x with wf := .written b } ∧ t.out = some (.port p, .bit b) ∧ t.slots = s.slots ∧
      SameStatus s t ∧ SameOutside s t ∧ SamePortsBut p s t

/-- R184. ISWF applied to the 36 bytes of Encode(r) gives 1, for every r, every port and in every phase. -/
def Obligations.ValidatorAcceptsIdentifiers : Prop :=
  ∀ (s : State) (p : Nat) (x : Port) (r : Block), IssuedBy p x s →
    ∃ t, exec (.iswf (encodeBlock r).toList) s = .next t ∧ t.out = some (.port p, .bit true) ∧
      t.ports[p]? = some { x with wf := .written true }

/-- INIT always ends, in READY or in FATAL, whatever the entropy source answers (R185); it leaves the ports and
the flags alone but for writing FLAG = 0 in READY. -/
def Obligations.InitEndsReadyOrFatal : Prop :=
  ∀ s : State, MayInit s → s.phase = .reset →
    ∃ t, exec .init s = .next t ∧ t.out = some (s.issuer, .done) ∧ t.ports = s.ports ∧ t.nSlots = s.nSlots ∧
      t.inputs = s.inputs ∧ t.issuer = s.issuer ∧
      ((t.phase = .ready ∧ t.fcause = s.fcause ∧ t.finfo = s.finfo ∧ ∀ x ∈ t.slots, x.Built ∧ x.flag = .free) ∨
       (t.phase = .fatal ∧ t.fcause ≠ .none ∧ ∀ i, t.flag i = s.flag i))

/-- INIT with a legal pool and N_SLOTS good draws constructs every generator (R185, R187): slot i gets bytes
0..15 of draw i as KEY, bytes 16..31 as CHAIN, a free flag; the machine is READY and exactly N_SLOTS draws were
made. INIT is issued by the host or by an idle port; the latter is the model's reading of R210 (log 7). -/
def Obligations.InitConstructsThePool : Prop :=
  ∀ s : State, MayInit s → s.phase = .reset → poolSizeOk s.nSlots = true →
    (∀ i, i < s.nSlots → ∃ e : EntropyRecord, s.supply[i]? = some e.toList) →
    ∃ t, exec .init s = .next t ∧ t.phase = .ready ∧ t.fcause = s.fcause ∧ t.finfo = s.finfo ∧
      t.nSlots = s.nSlots ∧ t.ports = s.ports ∧ t.supply = s.supply.drop s.nSlots ∧ t.fresh = s.fresh ∧
      t.inputs = s.inputs ∧ t.issuer = s.issuer ∧ t.out = some (s.issuer, .done) ∧
      ∀ (i : Nat) (e : EntropyRecord), i < s.nSlots → s.supply[i]? = some e.toList →
        ∃ k v : Block, t.slots[i]? = some { key := .written k, chain := .written v, flag := .free } ∧
          ∀ (j : Nat) (hj : j < 16), k[j] = e[j] ∧ v[j] = e[16 + j]

/-- The accepted pool sizes are 1, 2, 4, 8, 16, 32, 64, 128, 256 (R186); any other makes INIT fatal with
CONFIG_POOL_SIZE and FINFO = min(N_SLOTS, 511) (R18, R200, R204), before any entropy is drawn (R201), the flags kept
(R206). INIT is issued by the host or by an idle port; the latter is the model's reading of R210 (log 7). -/
def Obligations.PoolSizeCheck : Prop :=
  (∀ n : Nat, poolSizeOk n = true ↔ n ∈ [1, 2, 4, 8, 16, 32, 64, 128, 256]) ∧
  (∀ s : State, MayInit s → s.phase = .reset → s.nSlots ∉ [1, 2, 4, 8, 16, 32, 64, 128, 256] →
    ∃ t, exec .init s = .next t ∧ t.phase = .fatal ∧ t.fcause = .configPoolSize ∧
      t.finfo.toNat = min s.nSlots 511 ∧ t.supply = s.supply ∧ t.ports = s.ports ∧ ∀ i, t.flag i = s.flag i)

/-- The first draw that is not exactly 32 bytes ends INIT with ENTROPY_UNAVAILABLE and its slot number (R188,
R202, R205); the slots after it draw nothing. R188 and D22 say so of FAIL and of a short fill; that a longer fill
is a FAIL too is the model's choice (log 3). INIT is issued by the host or by an idle port; the latter is the
model's reading of R210 (log 7). -/
def Obligations.EntropyFailureIsFatal : Prop :=
  ∀ (s : State) (f : Nat) (bytes : List Byte), MayInit s → s.phase = .reset → poolSizeOk s.nSlots = true →
    f < s.nSlots → (∀ i, i < f → ∃ e : EntropyRecord, s.supply[i]? = some e.toList) →
    s.supply[f]? = some bytes → bytes.length ≠ 32 →
    ∃ t, exec .init s = .next t ∧ t.phase = .fatal ∧ t.fcause = .entropyUnavailable ∧ t.finfo.toNat = f ∧
      t.supply = s.supply.drop (f + 1) ∧ t.ports = s.ports ∧ ∀ i, t.flag i = s.flag i

/-- For whatever CipherConstruct is configured, the first key it rejects ends INIT with CIPHER_CONSTRUCT and its
slot number, entropy being tested first (R188, R203, R205); AES-128's rejects none (R112). -/
def Obligations.CipherRejectionIsFatal : Prop :=
  (∀ k : Block, cipherConstruct k = true) ∧
  (∀ (accepts : Block → Bool) (s : State) (f : Nat) (e : EntropyRecord), poolSizeOk s.nSlots = true →
    f < s.nSlots →
    (∀ i, i < f → ∃ e' : EntropyRecord, s.supply[i]? = some e'.toList ∧ accepts (keyHalf e') = true) →
    s.supply[f]? = some e.toList → accepts (keyHalf e) = false →
    (initWith accepts s).phase = .fatal ∧ (initWith accepts s).fcause = .cipherConstruct ∧
      (initWith accepts s).finfo.toNat = f ∧ (initWith accepts s).supply = s.supply.drop (f + 1))

/-! ### Faults, enabling, reset (60_exceptions.md, 70_reset_and_hazards.md) -/

/-- FATAL is sticky (R206, R208): until a hardware reset every step leaves PHASE, FCAUSE, FINFO and every slot
as they are. -/
def Obligations.FatalIsSticky : Prop :=
  ∀ s t : State, s.phase = .fatal → s.event ≠ .hardwareReset → step s = .next t →
    SameStatus s t ∧ t.slots = s.slots

/-- R230. A hardware reset, in any state: PHASE = RESET, FCAUSE = FINFO = 0, every flag 0, every HELD none, every
PSTATE IDLE, and KEY, CHAIN, IDX, RAW, STR, WF unwritten. -/
def Obligations.HardwareResetValues : Prop :=
  ∀ (s : State) (rest : List Event), s.inputs = .hardwareReset :: rest →
    ∃ t, step s = .next t ∧ t.phase = .reset ∧ t.fcause = .none ∧ t.finfo = 0 ∧
      t.nSlots = s.nSlots ∧ t.mPorts = s.mPorts ∧ t.inputs = rest ∧
      (∀ x ∈ t.slots, x.flag = .free ∧ x.key = .unwritten ∧ x.chain = .unwritten) ∧
      (∀ x ∈ t.ports, x.held = none ∧ x.pstate = .idle ∧ x.idx = .unwritten ∧ x.raw = .unwritten ∧
        x.str = .unwritten ∧ x.wf = .unwritten)

/-- The reset state (R26), for every configured size and number of ports. That State.reset has N_SLOTS = 256 and
M_PORTS = 2 is the model's choice (log 1). -/
def Obligations.ResetStateValues : Prop :=
  (∀ n m : Nat,
    (State.resetWith n m).phase = .reset ∧ (State.resetWith n m).fcause = .none ∧
    (State.resetWith n m).finfo = 0 ∧ (State.resetWith n m).nSlots = n ∧ (State.resetWith n m).mPorts = m ∧
    (∀ x ∈ (State.resetWith n m).slots, x.flag = .free ∧ x.key = .unwritten ∧ x.chain = .unwritten) ∧
    (∀ x ∈ (State.resetWith n m).ports, x.held = none ∧ x.pstate = .idle ∧ x.idx = .unwritten ∧
      x.raw = .unwritten ∧ x.str = .unwritten ∧ x.wf = .unwritten)) ∧
  State.reset = State.resetWith 256 2

/-- R233. Which operations are enabled in which phase: RESET, INIT and ISWF; READY, every port operation and not
INIT; FATAL, ISWF. One that is not enabled is refused; one that is enabled is never refused for its phase. Outside
READY nothing but INIT, in RESET, changes any KEY, CHAIN or FLAG (a hardware reset apart). -/
def Obligations.OperationsEnabledByPhase : Prop :=
  (∀ (i : Instr) (s : State), i.wf s.nSlots = true →
    ((i = .init ∧ MayInit s) ∨ ∃ p x, IssuedBy p x s) →
    (Enabled i s.phase = false → exec i s = .refused (.notEnabled s.phase)) ∧
    (Enabled i s.phase = true → ∀ ph, exec i s ≠ .refused (.notEnabled ph))) ∧
  (∀ s t : State, s.phase ≠ .ready → s.event ≠ .hardwareReset → step s = .next t → t.slots ≠ s.slots →
    s.phase = .reset ∧ ∃ a c, s.event = .command a c ∧ decode s.nSlots c = .ok .init)

/-- R242, the protocol violations, each a fault: ADVANCE or RELEASE of a slot not held; CLAIM, NEXT or GENV4 while
holding; ENCODE with RAW unwritten; any enabled operation issued to a port that is not IDLE. -/
def Obligations.ProtocolViolationsFault : Prop :=
  ∀ (s : State) (p : Nat) (x : Port), s.issuer = .port p → s.ports[p]? = some x →
    (s.phase = .ready → x.pstate = .idle →
      (∀ slot : Byte, slot.toNat < s.nSlots → x.held ≠ some slot.toNat →
        exec (.advance slot) s = .fault .notHolder ∧ exec (.release slot) s = .fault .notHolder) ∧
      (x.held ≠ none →
        (∀ slot : Byte, slot.toNat < s.nSlots → exec (.claim slot) s = .fault .alreadyHolding) ∧
        (∀ start : Byte, exec (.next start) s = .fault .alreadyHolding) ∧
        exec .genv4 s = .fault .alreadyHolding) ∧
      (x.raw = .unwritten → exec .encode s = .fault .unwrittenRead)) ∧
    (x.pstate ≠ .idle → ∀ i : Instr, i.wf s.nSlots = true → Enabled i s.phase = true →
      exec i s = .fault .portBusy)
end

