-- ==== Sys2Proof/Laws/Decode.lean ====
section
/-! SUPPORT. The fields of a command word, and the word from its fields. -/

namespace Sys2Proof

/-- OPC of an assembled word. -/
@[simp] theorem opcOf_commandWord (opc : Nibble) (arg : Byte) : opcOf (commandWord opc arg) = opc := by
  unfold opcOf commandWord
  apply BitVec.eq_of_getLsbD_eq
  intro i hi
  interval_cases i <;> simp

/-- ZERO of an assembled word. -/
@[simp] theorem zeroOf_commandWord (opc : Nibble) (arg : Byte) : zeroOf (commandWord opc arg) = 0 := by
  unfold zeroOf commandWord
  apply BitVec.eq_of_getLsbD_eq
  intro i hi
  interval_cases i <;> simp

/-- ARG of an assembled word. -/
@[simp] theorem argOf_commandWord (opc : Nibble) (arg : Byte) : argOf (commandWord opc arg) = arg := by
  unfold argOf commandWord
  apply BitVec.eq_of_getLsbD_eq
  intro i hi
  interval_cases i <;> simp

/-- A word whose ZERO field is zero is its OPC and ARG and nothing else. -/
theorem commandWord_of_zeroOf (w : CommandWord) (h : zeroOf w = 0) : commandWord (opcOf w) (argOf w) = w := by
  have hz : ∀ j, j < 4 → w.getLsbD (8 + j) = false := by
    intro j hj
    have := congrArg (fun v => BitVec.getLsbD v j) h
    simpa [zeroOf, hj] using this
  have h8 := hz 0; have h9 := hz 1; have h10 := hz 2; have h11 := hz 3
  unfold opcOf argOf commandWord
  apply BitVec.eq_of_getLsbD_eq
  intro i hi
  interval_cases i <;> simp_all

end Sys2Proof
end

