-- ==== Sys2Proof/Laws/State.lean ====
section
/-! SUPPORT. One lemma per field per update, each true by rfl. -/

namespace Sys2Proof.Machine

variable (s : State)

/-! ### modifySlot -/

@[simp] theorem State.modifySlot_phase (i : Nat) (f : Slot → Slot) : (s.modifySlot i f).phase = s.phase := rfl
@[simp] theorem State.modifySlot_fcause (i : Nat) (f : Slot → Slot) : (s.modifySlot i f).fcause = s.fcause := rfl
@[simp] theorem State.modifySlot_finfo (i : Nat) (f : Slot → Slot) : (s.modifySlot i f).finfo = s.finfo := rfl
@[simp] theorem State.modifySlot_slots (i : Nat) (f : Slot → Slot) : (s.modifySlot i f).slots = s.slots.modify i f := rfl
@[simp] theorem State.modifySlot_ports (i : Nat) (f : Slot → Slot) : (s.modifySlot i f).ports = s.ports := rfl
@[simp] theorem State.modifySlot_issuer (i : Nat) (f : Slot → Slot) : (s.modifySlot i f).issuer = s.issuer := rfl
@[simp] theorem State.modifySlot_out (i : Nat) (f : Slot → Slot) : (s.modifySlot i f).out = s.out := rfl
@[simp] theorem State.modifySlot_inputs (i : Nat) (f : Slot → Slot) : (s.modifySlot i f).inputs = s.inputs := rfl
@[simp] theorem State.modifySlot_supply (i : Nat) (f : Slot → Slot) : (s.modifySlot i f).supply = s.supply := rfl
@[simp] theorem State.modifySlot_fresh (i : Nat) (f : Slot → Slot) : (s.modifySlot i f).fresh = s.fresh := rfl

/-! ### setChain -/

@[simp] theorem State.setChain_phase (i : Nat) (b : Block) : (s.setChain i b).phase = s.phase := rfl
@[simp] theorem State.setChain_fcause (i : Nat) (b : Block) : (s.setChain i b).fcause = s.fcause := rfl
@[simp] theorem State.setChain_finfo (i : Nat) (b : Block) : (s.setChain i b).finfo = s.finfo := rfl
@[simp] theorem State.setChain_slots (i : Nat) (b : Block) : (s.setChain i b).slots = s.slots.modify i fun x => { x with chain := .written b } := rfl
@[simp] theorem State.setChain_ports (i : Nat) (b : Block) : (s.setChain i b).ports = s.ports := rfl
@[simp] theorem State.setChain_issuer (i : Nat) (b : Block) : (s.setChain i b).issuer = s.issuer := rfl
@[simp] theorem State.setChain_out (i : Nat) (b : Block) : (s.setChain i b).out = s.out := rfl
@[simp] theorem State.setChain_inputs (i : Nat) (b : Block) : (s.setChain i b).inputs = s.inputs := rfl
@[simp] theorem State.setChain_supply (i : Nat) (b : Block) : (s.setChain i b).supply = s.supply := rfl
@[simp] theorem State.setChain_fresh (i : Nat) (b : Block) : (s.setChain i b).fresh = s.fresh := rfl

/-! ### setFlag -/

@[simp] theorem State.setFlag_phase (i : Nat) (f : Flag) : (s.setFlag i f).phase = s.phase := rfl
@[simp] theorem State.setFlag_fcause (i : Nat) (f : Flag) : (s.setFlag i f).fcause = s.fcause := rfl
@[simp] theorem State.setFlag_finfo (i : Nat) (f : Flag) : (s.setFlag i f).finfo = s.finfo := rfl
@[simp] theorem State.setFlag_slots (i : Nat) (f : Flag) : (s.setFlag i f).slots = s.slots.modify i fun x => { x with flag := f } := rfl
@[simp] theorem State.setFlag_ports (i : Nat) (f : Flag) : (s.setFlag i f).ports = s.ports := rfl
@[simp] theorem State.setFlag_issuer (i : Nat) (f : Flag) : (s.setFlag i f).issuer = s.issuer := rfl
@[simp] theorem State.setFlag_out (i : Nat) (f : Flag) : (s.setFlag i f).out = s.out := rfl
@[simp] theorem State.setFlag_inputs (i : Nat) (f : Flag) : (s.setFlag i f).inputs = s.inputs := rfl
@[simp] theorem State.setFlag_supply (i : Nat) (f : Flag) : (s.setFlag i f).supply = s.supply := rfl
@[simp] theorem State.setFlag_fresh (i : Nat) (f : Flag) : (s.setFlag i f).fresh = s.fresh := rfl

/-! ### modifyPort -/

@[simp] theorem State.modifyPort_phase (p : Nat) (f : Port → Port) : (s.modifyPort p f).phase = s.phase := rfl
@[simp] theorem State.modifyPort_fcause (p : Nat) (f : Port → Port) : (s.modifyPort p f).fcause = s.fcause := rfl
@[simp] theorem State.modifyPort_finfo (p : Nat) (f : Port → Port) : (s.modifyPort p f).finfo = s.finfo := rfl
@[simp] theorem State.modifyPort_slots (p : Nat) (f : Port → Port) : (s.modifyPort p f).slots = s.slots := rfl
@[simp] theorem State.modifyPort_ports (p : Nat) (f : Port → Port) : (s.modifyPort p f).ports = s.ports.modify p f := rfl
@[simp] theorem State.modifyPort_issuer (p : Nat) (f : Port → Port) : (s.modifyPort p f).issuer = s.issuer := rfl
@[simp] theorem State.modifyPort_out (p : Nat) (f : Port → Port) : (s.modifyPort p f).out = s.out := rfl
@[simp] theorem State.modifyPort_inputs (p : Nat) (f : Port → Port) : (s.modifyPort p f).inputs = s.inputs := rfl
@[simp] theorem State.modifyPort_supply (p : Nat) (f : Port → Port) : (s.modifyPort p f).supply = s.supply := rfl
@[simp] theorem State.modifyPort_fresh (p : Nat) (f : Port → Port) : (s.modifyPort p f).fresh = s.fresh := rfl

/-! ### setPState -/

@[simp] theorem State.setPState_phase (p : Nat) (q : PState) : (s.setPState p q).phase = s.phase := rfl
@[simp] theorem State.setPState_fcause (p : Nat) (q : PState) : (s.setPState p q).fcause = s.fcause := rfl
@[simp] theorem State.setPState_finfo (p : Nat) (q : PState) : (s.setPState p q).finfo = s.finfo := rfl
@[simp] theorem State.setPState_slots (p : Nat) (q : PState) : (s.setPState p q).slots = s.slots := rfl
@[simp] theorem State.setPState_ports (p : Nat) (q : PState) : (s.setPState p q).ports = s.ports.modify p fun x => { x with pstate := q } := rfl
@[simp] theorem State.setPState_issuer (p : Nat) (q : PState) : (s.setPState p q).issuer = s.issuer := rfl
@[simp] theorem State.setPState_out (p : Nat) (q : PState) : (s.setPState p q).out = s.out := rfl
@[simp] theorem State.setPState_inputs (p : Nat) (q : PState) : (s.setPState p q).inputs = s.inputs := rfl
@[simp] theorem State.setPState_supply (p : Nat) (q : PState) : (s.setPState p q).supply = s.supply := rfl
@[simp] theorem State.setPState_fresh (p : Nat) (q : PState) : (s.setPState p q).fresh = s.fresh := rfl

/-! ### setIdx -/

@[simp] theorem State.setIdx_phase (p i : Nat) : (s.setIdx p i).phase = s.phase := rfl
@[simp] theorem State.setIdx_fcause (p i : Nat) : (s.setIdx p i).fcause = s.fcause := rfl
@[simp] theorem State.setIdx_finfo (p i : Nat) : (s.setIdx p i).finfo = s.finfo := rfl
@[simp] theorem State.setIdx_slots (p i : Nat) : (s.setIdx p i).slots = s.slots := rfl
@[simp] theorem State.setIdx_ports (p i : Nat) : (s.setIdx p i).ports = s.ports.modify p fun x => { x with idx := .written i } := rfl
@[simp] theorem State.setIdx_issuer (p i : Nat) : (s.setIdx p i).issuer = s.issuer := rfl
@[simp] theorem State.setIdx_out (p i : Nat) : (s.setIdx p i).out = s.out := rfl
@[simp] theorem State.setIdx_inputs (p i : Nat) : (s.setIdx p i).inputs = s.inputs := rfl
@[simp] theorem State.setIdx_supply (p i : Nat) : (s.setIdx p i).supply = s.supply := rfl
@[simp] theorem State.setIdx_fresh (p i : Nat) : (s.setIdx p i).fresh = s.fresh := rfl

/-! ### setHeld -/

@[simp] theorem State.setHeld_phase (p : Nat) (h : Option Nat) : (s.setHeld p h).phase = s.phase := rfl
@[simp] theorem State.setHeld_fcause (p : Nat) (h : Option Nat) : (s.setHeld p h).fcause = s.fcause := rfl
@[simp] theorem State.setHeld_finfo (p : Nat) (h : Option Nat) : (s.setHeld p h).finfo = s.finfo := rfl
@[simp] theorem State.setHeld_slots (p : Nat) (h : Option Nat) : (s.setHeld p h).slots = s.slots := rfl
@[simp] theorem State.setHeld_ports (p : Nat) (h : Option Nat) : (s.setHeld p h).ports = s.ports.modify p fun x => { x with held := h } := rfl
@[simp] theorem State.setHeld_issuer (p : Nat) (h : Option Nat) : (s.setHeld p h).issuer = s.issuer := rfl
@[simp] theorem State.setHeld_out (p : Nat) (h : Option Nat) : (s.setHeld p h).out = s.out := rfl
@[simp] theorem State.setHeld_inputs (p : Nat) (h : Option Nat) : (s.setHeld p h).inputs = s.inputs := rfl
@[simp] theorem State.setHeld_supply (p : Nat) (h : Option Nat) : (s.setHeld p h).supply = s.supply := rfl
@[simp] theorem State.setHeld_fresh (p : Nat) (h : Option Nat) : (s.setHeld p h).fresh = s.fresh := rfl

/-! ### setRaw -/

@[simp] theorem State.setRaw_phase (p : Nat) (b : Block) : (s.setRaw p b).phase = s.phase := rfl
@[simp] theorem State.setRaw_fcause (p : Nat) (b : Block) : (s.setRaw p b).fcause = s.fcause := rfl
@[simp] theorem State.setRaw_finfo (p : Nat) (b : Block) : (s.setRaw p b).finfo = s.finfo := rfl
@[simp] theorem State.setRaw_slots (p : Nat) (b : Block) : (s.setRaw p b).slots = s.slots := rfl
@[simp] theorem State.setRaw_ports (p : Nat) (b : Block) : (s.setRaw p b).ports = s.ports.modify p fun x => { x with raw := .written b } := rfl
@[simp] theorem State.setRaw_issuer (p : Nat) (b : Block) : (s.setRaw p b).issuer = s.issuer := rfl
@[simp] theorem State.setRaw_out (p : Nat) (b : Block) : (s.setRaw p b).out = s.out := rfl
@[simp] theorem State.setRaw_inputs (p : Nat) (b : Block) : (s.setRaw p b).inputs = s.inputs := rfl
@[simp] theorem State.setRaw_supply (p : Nat) (b : Block) : (s.setRaw p b).supply = s.supply := rfl
@[simp] theorem State.setRaw_fresh (p : Nat) (b : Block) : (s.setRaw p b).fresh = s.fresh := rfl

/-! ### setStr -/

@[simp] theorem State.setStr_phase (p : Nat) (u : Identifier) : (s.setStr p u).phase = s.phase := rfl
@[simp] theorem State.setStr_fcause (p : Nat) (u : Identifier) : (s.setStr p u).fcause = s.fcause := rfl
@[simp] theorem State.setStr_finfo (p : Nat) (u : Identifier) : (s.setStr p u).finfo = s.finfo := rfl
@[simp] theorem State.setStr_slots (p : Nat) (u : Identifier) : (s.setStr p u).slots = s.slots := rfl
@[simp] theorem State.setStr_ports (p : Nat) (u : Identifier) : (s.setStr p u).ports = s.ports.modify p fun x => { x with str := .written u } := rfl
@[simp] theorem State.setStr_issuer (p : Nat) (u : Identifier) : (s.setStr p u).issuer = s.issuer := rfl
@[simp] theorem State.setStr_out (p : Nat) (u : Identifier) : (s.setStr p u).out = s.out := rfl
@[simp] theorem State.setStr_inputs (p : Nat) (u : Identifier) : (s.setStr p u).inputs = s.inputs := rfl
@[simp] theorem State.setStr_supply (p : Nat) (u : Identifier) : (s.setStr p u).supply = s.supply := rfl
@[simp] theorem State.setStr_fresh (p : Nat) (u : Identifier) : (s.setStr p u).fresh = s.fresh := rfl

/-! ### setWf -/

@[simp] theorem State.setWf_phase (p : Nat) (b : Bool) : (s.setWf p b).phase = s.phase := rfl
@[simp] theorem State.setWf_fcause (p : Nat) (b : Bool) : (s.setWf p b).fcause = s.fcause := rfl
@[simp] theorem State.setWf_finfo (p : Nat) (b : Bool) : (s.setWf p b).finfo = s.finfo := rfl
@[simp] theorem State.setWf_slots (p : Nat) (b : Bool) : (s.setWf p b).slots = s.slots := rfl
@[simp] theorem State.setWf_ports (p : Nat) (b : Bool) : (s.setWf p b).ports = s.ports.modify p fun x => { x with wf := .written b } := rfl
@[simp] theorem State.setWf_issuer (p : Nat) (b : Bool) : (s.setWf p b).issuer = s.issuer := rfl
@[simp] theorem State.setWf_out (p : Nat) (b : Bool) : (s.setWf p b).out = s.out := rfl
@[simp] theorem State.setWf_inputs (p : Nat) (b : Bool) : (s.setWf p b).inputs = s.inputs := rfl
@[simp] theorem State.setWf_supply (p : Nat) (b : Bool) : (s.setWf p b).supply = s.supply := rfl
@[simp] theorem State.setWf_fresh (p : Nat) (b : Bool) : (s.setWf p b).fresh = s.fresh := rfl

/-! ### respond -/

@[simp] theorem State.respond_phase (r : Response) : (s.respond r).phase = s.phase := rfl
@[simp] theorem State.respond_fcause (r : Response) : (s.respond r).fcause = s.fcause := rfl
@[simp] theorem State.respond_finfo (r : Response) : (s.respond r).finfo = s.finfo := rfl
@[simp] theorem State.respond_slots (r : Response) : (s.respond r).slots = s.slots := rfl
@[simp] theorem State.respond_ports (r : Response) : (s.respond r).ports = s.ports := rfl
@[simp] theorem State.respond_issuer (r : Response) : (s.respond r).issuer = s.issuer := rfl
@[simp] theorem State.respond_out (r : Response) : (s.respond r).out = some (s.issuer, r) := rfl
@[simp] theorem State.respond_inputs (r : Response) : (s.respond r).inputs = s.inputs := rfl
@[simp] theorem State.respond_supply (r : Response) : (s.respond r).supply = s.supply := rfl
@[simp] theorem State.respond_fresh (r : Response) : (s.respond r).fresh = s.fresh := rfl

/-! ### silent -/

@[simp] theorem State.silent_phase : (s.silent).phase = s.phase := rfl
@[simp] theorem State.silent_fcause : (s.silent).fcause = s.fcause := rfl
@[simp] theorem State.silent_finfo : (s.silent).finfo = s.finfo := rfl
@[simp] theorem State.silent_slots : (s.silent).slots = s.slots := rfl
@[simp] theorem State.silent_ports : (s.silent).ports = s.ports := rfl
@[simp] theorem State.silent_issuer : (s.silent).issuer = s.issuer := rfl
@[simp] theorem State.silent_out : (s.silent).out = none := rfl
@[simp] theorem State.silent_inputs : (s.silent).inputs = s.inputs := rfl
@[simp] theorem State.silent_supply : (s.silent).supply = s.supply := rfl
@[simp] theorem State.silent_fresh : (s.silent).fresh = s.fresh := rfl

/-! ### Hardware reset -/

@[simp] theorem hardwareReset_phase : (hardwareReset s).phase = .reset := rfl
@[simp] theorem hardwareReset_fcause : (hardwareReset s).fcause = .none := rfl
@[simp] theorem hardwareReset_finfo : (hardwareReset s).finfo = 0 := rfl
@[simp] theorem hardwareReset_slots : (hardwareReset s).slots = s.slots.map fun _ => Slot.reset := rfl
@[simp] theorem hardwareReset_ports : (hardwareReset s).ports = s.ports.map fun _ => Port.reset := rfl
@[simp] theorem hardwareReset_issuer : (hardwareReset s).issuer = .host := rfl
@[simp] theorem hardwareReset_out : (hardwareReset s).out = none := rfl
@[simp] theorem hardwareReset_inputs : (hardwareReset s).inputs = s.inputs := rfl
@[simp] theorem hardwareReset_supply : (hardwareReset s).supply = s.supply := rfl
@[simp] theorem hardwareReset_fresh : (hardwareReset s).fresh = s.fresh := rfl

/-! ### Raising Fatal -/

@[simp] theorem raiseFatal_phase (c : FCause) (n : Nat) : (raiseFatal c n s).phase = .fatal := rfl
@[simp] theorem raiseFatal_fcause (c : FCause) (n : Nat) : (raiseFatal c n s).fcause = c := rfl
@[simp] theorem raiseFatal_finfo (c : FCause) (n : Nat) : (raiseFatal c n s).finfo = BitVec.ofNat 9 n := rfl
@[simp] theorem raiseFatal_ports (c : FCause) (n : Nat) : (raiseFatal c n s).ports = s.ports := rfl
@[simp] theorem raiseFatal_issuer (c : FCause) (n : Nat) : (raiseFatal c n s).issuer = s.issuer := rfl
@[simp] theorem raiseFatal_out (c : FCause) (n : Nat) : (raiseFatal c n s).out = s.out := rfl
@[simp] theorem raiseFatal_inputs (c : FCause) (n : Nat) : (raiseFatal c n s).inputs = s.inputs := rfl
@[simp] theorem raiseFatal_supply (c : FCause) (n : Nat) : (raiseFatal c n s).supply = s.supply := rfl
@[simp] theorem raiseFatal_fresh (c : FCause) (n : Nat) : (raiseFatal c n s).fresh = s.fresh + 1 := rfl

/-! ### Reset -/

@[simp] theorem State.resetWith_phase (n m : Nat) : (State.resetWith n m).phase = .reset := rfl
@[simp] theorem State.resetWith_fcause (n m : Nat) : (State.resetWith n m).fcause = .none := rfl
@[simp] theorem State.resetWith_finfo (n m : Nat) : (State.resetWith n m).finfo = 0 := rfl
@[simp] theorem State.resetWith_slots (n m : Nat) : (State.resetWith n m).slots = List.replicate n Slot.reset := rfl
@[simp] theorem State.resetWith_ports (n m : Nat) : (State.resetWith n m).ports = List.replicate m Port.reset := rfl
@[simp] theorem State.resetWith_issuer (n m : Nat) : (State.resetWith n m).issuer = .host := rfl
@[simp] theorem State.resetWith_out (n m : Nat) : (State.resetWith n m).out = none := rfl
@[simp] theorem State.resetWith_inputs (n m : Nat) : (State.resetWith n m).inputs = [] := rfl
@[simp] theorem State.resetWith_supply (n m : Nat) : (State.resetWith n m).supply = [] := rfl
@[simp] theorem State.resetWith_fresh (n m : Nat) : (State.resetWith n m).fresh = 0 := rfl

end Sys2Proof.Machine
end

