-- ==== Sys2Proof/Laws/Ops.lean ====
section
/-! SUPPORT. What each shared operation does, said once: reads after writes, the preconditions, the two atomic
primitives, the events. -/

namespace Sys2Proof.Machine

/-! ### The parameters are not changed -/

section Parameters

variable (s : State)

@[simp] theorem State.nSlots_modifySlot (i : Nat) (f : Slot → Slot) : (s.modifySlot i f).nSlots = s.nSlots := by
  simp [State.nSlots]

@[simp] theorem State.nSlots_modifyPort (p : Nat) (f : Port → Port) : (s.modifyPort p f).nSlots = s.nSlots := rfl

@[simp] theorem State.nSlots_respond (r : Response) : (s.respond r).nSlots = s.nSlots := rfl

@[simp] theorem State.nSlots_silent : s.silent.nSlots = s.nSlots := rfl

@[simp] theorem State.mPorts_modifySlot (i : Nat) (f : Slot → Slot) : (s.modifySlot i f).mPorts = s.mPorts := rfl

@[simp] theorem State.mPorts_modifyPort (p : Nat) (f : Port → Port) : (s.modifyPort p f).mPorts = s.mPorts := by
  simp [State.mPorts]

@[simp] theorem State.mPorts_respond (r : Response) : (s.respond r).mPorts = s.mPorts := rfl

@[simp] theorem State.mPorts_silent : s.silent.mPorts = s.mPorts := rfl

@[simp] theorem State.nSlots_hardwareReset : (hardwareReset s).nSlots = s.nSlots := by simp [State.nSlots]

@[simp] theorem State.nSlots_raiseFatal (c : FCause) (n : Nat) : (raiseFatal c n s).nSlots = s.nSlots := by
  simp [State.nSlots, raiseFatal]

end Parameters

/-! ### Reads after writes -/

section Reads

variable (s : State)

/-- A changed slot, and every other slot as before. -/
theorem State.modifySlot_get (i j : Nat) (f : Slot → Slot) :
    (s.modifySlot i f).slots[j]? = if i = j then (s.slots[j]?).map f else s.slots[j]? := by
  simp only [State.modifySlot_slots, List.getElem?_modify]
  split <;> cases s.slots[j]? <;> simp

/-- A changed port, and every other port as before. -/
theorem State.modifyPort_get (p q : Nat) (f : Port → Port) :
    (s.modifyPort p f).ports[q]? = if p = q then (s.ports[q]?).map f else s.ports[q]? := by
  simp only [State.modifyPort_ports, List.getElem?_modify]
  split <;> cases s.ports[q]? <;> simp

/-- FLAG after a flag write. -/
theorem State.flag_setFlag (i j : Nat) (f : Flag) :
    (s.setFlag i f).flag j = if i = j then (s.flag j).map (fun _ => f) else s.flag j := by
  simp only [State.flag, State.setFlag, State.modifySlot_get]
  split <;> cases s.slots[j]? <;> simp

@[simp] theorem State.key_setFlag (i j : Nat) (f : Flag) : (s.setFlag i f).key j = s.key j := by
  simp only [State.key, State.setFlag, State.modifySlot_get]
  split <;> cases s.slots[j]? <;> simp

@[simp] theorem State.chain_setFlag (i j : Nat) (f : Flag) : (s.setFlag i f).chain j = s.chain j := by
  simp only [State.chain, State.setFlag, State.modifySlot_get]
  split <;> cases s.slots[j]? <;> simp

/-- CHAIN after a chain write to a slot of the pool. -/
theorem State.chain_setChain (i j : Nat) (b : Block) (hi : i < s.nSlots) :
    (s.setChain i b).chain j = if i = j then .written b else s.chain j := by
  simp only [State.chain, State.setChain, State.modifySlot_get]
  split
  · subst i; simp [List.getElem?_eq_getElem hi]
  · rfl

@[simp] theorem State.key_setChain (i j : Nat) (b : Block) : (s.setChain i b).key j = s.key j := by
  simp only [State.key, State.setChain, State.modifySlot_get]
  split <;> cases s.slots[j]? <;> simp

@[simp] theorem State.flag_setChain (i j : Nat) (b : Block) : (s.setChain i b).flag j = s.flag j := by
  simp only [State.flag, State.setChain, State.modifySlot_get]
  split <;> cases s.slots[j]? <;> simp

/-- HELD after a write of HELD by a port that exists. -/
theorem State.held_setHeld (p q : Nat) (h : Option Nat) (hp : p < s.mPorts) :
    (s.setHeld p h).held q = if p = q then h else s.held q := by
  simp only [State.held, State.setHeld, State.modifyPort_get]
  split
  · subst p; simp [List.getElem?_eq_getElem hp]
  · rfl

end Reads

/-! ### The preconditions: when they let an operation through, and what it then does -/

section Preconditions

variable {s t : State} {k : Nat → Port → Result} {p : Nat} {x : Port}

/-- An operation of a ready machine's idle port goes through. -/
theorem withReadyPort_of (hi : s.issuer = .port p) (hx : s.ports[p]? = some x) (hr : s.phase = .ready)
    (hq : x.pstate = .idle) : withReadyPort s k = k p x := by
  simp [withReadyPort, withIdlePort, withPort, hi, hx, hr, hq]

/-- An operation that only needs an idle port goes through. -/
theorem withIdlePort_of (hi : s.issuer = .port p) (hx : s.ports[p]? = some x) (hq : x.pstate = .idle) :
    withIdlePort s k = k p x := by
  simp [withIdlePort, withPort, hi, hx, hq]

/-- A next state behind `withIdlePort` comes from an idle port. -/
theorem withIdlePort_next (h : withIdlePort s k = .next t) :
    ∃ p x, s.issuer = .port p ∧ s.ports[p]? = some x ∧ x.pstate = .idle ∧ k p x = .next t := by
  unfold withIdlePort withPort at h
  split at h
  · cases h
  · split at h
    · cases h
    · dsimp only at h
      split at h
      · exact ⟨_, _, ‹_›, ‹_›, ‹_›, h⟩
      · cases h

/-- A next state behind `withReadyPort` comes from an idle port of a ready machine. -/
theorem withReadyPort_next (h : withReadyPort s k = .next t) :
    ∃ p x, s.issuer = .port p ∧ s.ports[p]? = some x ∧ s.phase = .ready ∧ x.pstate = .idle ∧ k p x = .next t := by
  have hr : s.phase = .ready ∧ withIdlePort s k = .next t := by
    unfold withReadyPort withPort at h
    split at h
    · cases h
    · split at h
      · cases h
      · dsimp only at h
        split at h
        · exact ⟨‹_›, h⟩
        · cases h
  obtain ⟨p, x, hi, hx, hq, hk⟩ := withIdlePort_next hr.2
  exact ⟨p, x, hi, hx, hr.1, hq, hk⟩

/-- A next state behind `withSlot` comes from a slot of the pool. -/
theorem withSlot_next {slot : Byte} {k : Nat → Result} (h : withSlot slot s k = .next t) :
    slot.toNat < s.nSlots ∧ k slot.toNat = .next t := by
  unfold withSlot at h
  split at h
  · exact ⟨‹_›, h⟩
  · cases h

theorem withSlot_of {slot : Byte} {k : Nat → Result} (h : slot.toNat < s.nSlots) :
    withSlot slot s k = k slot.toNat := by
  simp [withSlot, h]

/-- A next state behind `withAnyIssuer` is its body's. -/
theorem withAnyIssuer_next {k : Result} (h : withAnyIssuer s k = .next t) : k = .next t := by
  unfold withAnyIssuer at h
  split at h
  · exact h
  · obtain ⟨_, _, _, _, _, hk⟩ := withIdlePort_next h
    exact hk

@[simp] theorem withLatch_written {α : Type} (v : α) (k : α → Result) : withLatch (.written v) k = k v := rfl

@[simp] theorem withLatch_unwritten {α : Type} (k : α → Result) :
    withLatch .unwritten k = .fault .unwrittenRead := rfl

/-- A next state behind `withLatch` comes from a written register. -/
theorem withLatch_next {α : Type} {r : Latch α} {k : α → Result} (h : withLatch r k = .next t) :
    ∃ v, r = .written v ∧ k v = .next t := by
  cases r with
  | unwritten => cases h
  | written v => exact ⟨v, rfl, h⟩

end Preconditions

/-! ### What each meaning can do -/

section Meanings

variable {s t : State}

/-- CLAIM answers a next state only with the port's claim attempt (43_arbiter.md R151). -/
theorem execClaim_next {slot : Byte} (h : execClaim slot s = .next t) :
    ∃ p x, slot.toNat < s.nSlots ∧ s.issuer = .port p ∧ s.ports[p]? = some x ∧ s.phase = .ready ∧
      x.pstate = .idle ∧ x.held = none ∧
      t = (claimState p slot.toNat s).2.respond (.bit (claimState p slot.toNat s).1) := by
  obtain ⟨hs, h⟩ := withSlot_next h
  obtain ⟨p, x, hi, hx, hr, hq, h⟩ := withReadyPort_next h
  split at h
  · cases h; exact ⟨p, x, hs, hi, hx, hr, hq, ‹_›, rfl⟩
  · cases h

/-- ADVANCE answers a next state only for the slot's holder (40_generator_advance.md R91). -/
theorem execAdvance_next {slot : Byte} (h : execAdvance slot s = .next t) :
    ∃ p x y, slot.toNat < s.nSlots ∧ s.issuer = .port p ∧ s.ports[p]? = some x ∧ s.phase = .ready ∧
      x.pstate = .idle ∧ x.held = some slot.toNat ∧ nextBlock slot.toNat s = .ok y ∧
      t = (advanceState p slot.toNat y s).respond (.block y) := by
  obtain ⟨hs, h⟩ := withSlot_next h
  obtain ⟨p, x, hi, hx, hr, hq, h⟩ := withReadyPort_next h
  split at h
  · split at h
    · cases h
    · cases h; exact ⟨p, x, _, hs, hi, hx, hr, hq, ‹_›, ‹_›, rfl⟩
  · cases h

/-- ENCODE answers a next state only with RAW[p] written (42_encoder.md R131). -/
theorem execEncode_next (h : execEncode s = .next t) :
    ∃ p x r, s.issuer = .port p ∧ s.ports[p]? = some x ∧ s.phase = .ready ∧ x.pstate = .idle ∧
      x.raw = .written r ∧ t = (encodeState p r s).respond (.ident (encodeBlock r)) := by
  obtain ⟨p, x, hi, hx, hr, hq, h⟩ := withReadyPort_next h
  obtain ⟨r, hw, h⟩ := withLatch_next h
  cases h
  exact ⟨p, x, r, hi, hx, hr, hq, hw, rfl⟩

/-- RELEASE answers a next state only for the slot's holder (43_arbiter.md R153). -/
theorem execRelease_next {slot : Byte} (h : execRelease slot s = .next t) :
    ∃ p x, slot.toNat < s.nSlots ∧ s.issuer = .port p ∧ s.ports[p]? = some x ∧ s.phase = .ready ∧
      x.pstate = .idle ∧ x.held = some slot.toNat ∧ t = (releaseState p slot.toNat s).respond .done := by
  obtain ⟨hs, h⟩ := withSlot_next h
  obtain ⟨p, x, hi, hx, hr, hq, h⟩ := withReadyPort_next h
  split at h
  · cases h; exact ⟨p, x, hs, hi, hx, hr, hq, ‹_›, rfl⟩
  · cases h

/-- NEXT is accepted only from an idle port that holds nothing (43_arbiter.md R157). -/
theorem acceptNext_next {start : Byte} (h : acceptNext start s = .next t) :
    ∃ p x, s.issuer = .port p ∧ s.ports[p]? = some x ∧ s.phase = .ready ∧ x.pstate = .idle ∧ x.held = none ∧
      t = ((s.setIdx p (startIndex start s)).setPState p .scan).silent := by
  obtain ⟨p, x, hi, hx, hr, hq, h⟩ := withReadyPort_next h
  split at h
  · cases h; exact ⟨p, x, hi, hx, hr, hq, ‹_›, rfl⟩
  · cases h

/-- ISWF answers a next state only from an idle port (44_external_ops.md R182). -/
theorem execIswf_next {payload : List Byte} (h : execIswf payload s = .next t) :
    ∃ p x, s.issuer = .port p ∧ s.ports[p]? = some x ∧ x.pstate = .idle ∧
      t = (s.setWf p (isWellFormed payload)).respond (.bit (isWellFormed payload)) := by
  obtain ⟨p, x, hi, hx, hq, h⟩ := withIdlePort_next h
  cases h
  exact ⟨p, x, hi, hx, hq, rfl⟩

/-- INIT answers a next state only in RESET (44_external_ops.md R185, R189). -/
theorem execInit_next (h : execInit s = .next t) :
    s.phase = .reset ∧ t = (initWith cipherConstruct s).respond .done := by
  have h := withAnyIssuer_next h
  split at h
  · cases h; exact ⟨‹_›, rfl⟩
  · cases h

/-- The steps of a NEXT in progress: what `proceed` can do (43_arbiter.md R157). -/
theorem proceed_next {p : Nat} (h : proceed p s = .next t) :
    ∃ x, s.ports[p]? = some x ∧
      ((x.pstate = .idle ∧ t = s.silent) ∨
       (s.phase = .ready ∧ x.pstate = .scan ∧ ∃ i, x.idx = .written i ∧ (claimState p i s).1 = true ∧
          t = ((claimState p i s).2.setPState p .adv).silent) ∨
       (s.phase = .ready ∧ x.pstate = .scan ∧ ∃ i, x.idx = .written i ∧ (claimState p i s).1 = false ∧
          t = ((claimState p i s).2.setIdx p (nextIndex i s)).silent) ∨
       (s.phase = .ready ∧ x.pstate = .adv ∧ ∃ i y, x.held = some i ∧ nextBlock i s = .ok y ∧
          t = ((advanceState p i y s).setPState p .enc).silent) ∨
       (s.phase = .ready ∧ x.pstate = .enc ∧ ∃ r, x.raw = .written r ∧
          t = ((encodeState p r s).setPState p .rel).silent) ∨
       (s.phase = .ready ∧ x.pstate = .rel ∧ ∃ i u, x.held = some i ∧ x.str = .written u ∧
          t = ((releaseState p i s).setPState p .idle).respond (.ident u))) := by
  unfold proceed at h
  split at h
  · cases h
  rename_i x hx
  refine ⟨x, hx, ?_⟩
  split at h
  · cases h; exact .inl ⟨‹_›, rfl⟩
  · split at h <;> [skip; cases h]
    obtain ⟨i, hidx, h⟩ := withLatch_next h
    split at h <;> rename_i c hc <;> cases h
    · exact .inr (.inl ⟨‹_›, ‹_›, i, hidx, by rw [hc], by rw [hc]⟩)
    · exact .inr (.inr (.inl ⟨‹_›, ‹_›, i, hidx, by rw [hc], by rw [hc]⟩))
  · split at h <;> [skip; cases h]
    unfold advStep at h
    split at h
    · cases h
    · split at h <;> cases h
      exact .inr (.inr (.inr (.inl ⟨‹_›, ‹_›, _, _, ‹_›, ‹_›, rfl⟩)))
  · split at h <;> [skip; cases h]
    obtain ⟨r, hraw, h⟩ := withLatch_next h
    cases h
    exact .inr (.inr (.inr (.inr (.inl ⟨‹_›, ‹_›, r, hraw, rfl⟩))))
  · split at h <;> [skip; cases h]
    unfold relStep at h
    split at h
    · cases h
    · obtain ⟨u, hstr, h⟩ := withLatch_next h
      cases h
      exact .inr (.inr (.inr (.inr (.inr ⟨‹_›, ‹_›, _, u, ‹_›, hstr, rfl⟩))))

/-- A presented command answers a next state only through the instruction it decodes to (30_encoding.md R76). -/
theorem present_next {a : Agent} {c : Command} (h : present a c s = .next t) :
    ∃ i, decode s.nSlots c = .ok i ∧ exec i { s with issuer := a } = .next t := by
  unfold present at h
  split at h
  · cases h
  · exact ⟨_, ‹_›, h⟩

end Meanings

/-! ### The atomic primitives and a claim attempt -/

section Atomic

variable {s : State} {i p : Nat}

/-- A compare-and-set on a free flag succeeds (20_memory.md R44). -/
theorem casFlag_free (h : s.flag i = some .free) : casFlag i s = (true, s.setFlag i .claimed) := by
  simp [casFlag, h]

/-- A compare-and-set on any other flag fails and changes nothing (20_memory.md R44). -/
theorem casFlag_not_free (h : s.flag i ≠ some .free) : casFlag i s = (false, s) := by
  simp [casFlag, h]

theorem claimState_free (h : s.flag i = some .free) :
    claimState p i s = (true, (s.setFlag i .claimed).setHeld p (some i)) := by
  simp [claimState, casFlag_free h]

theorem claimState_not_free (h : s.flag i ≠ some .free) : claimState p i s = (false, s) := by
  simp [claimState, casFlag_not_free h]

/-- The next block of a constructed slot (40_generator_advance.md R91). -/
theorem nextBlock_of {k c : Block} (hk : s.key i = .written k) (hc : s.chain i = .written c) :
    nextBlock i s = .ok (blockEncrypt k c) := by
  simp [nextBlock, readLatch, hk, hc]

/-- A next block comes from a written key and a written chaining state. -/
theorem nextBlock_ok {y : Block} (h : nextBlock i s = .ok y) :
    ∃ k c, s.key i = .written k ∧ s.chain i = .written c ∧ y = blockEncrypt k c := by
  unfold nextBlock at h
  cases hk : s.key i <;> cases hc : s.chain i <;> rw [hk, hc] at h <;> cases h
  exact ⟨_, _, rfl, rfl, rfl⟩

end Atomic

end Sys2Proof.Machine
end

