-- ==== Sys2Proof/Laws/Init.lean ====
section
/-! SUPPORT. INIT's loop: one draw, one slot, and what the whole loop can come to. -/

namespace Sys2Proof.Machine

/-- A supply of exactly 32 bytes is that record. -/
@[simp] theorem drawOf_toList (e : EntropyRecord) : drawOf e.toList = .filled e := by
  have h : e.toList.toArray = e.toArray := by
    show e.toArray.toList.toArray = e.toArray
    exact Array.toArray_toList
  simp [drawOf, h]

/-- A supply of any other length is FAIL (44_external_ops.md R188). -/
theorem drawOf_fail {bytes : List Byte} (h : bytes.length ≠ 32) : drawOf bytes = .fail := by
  simp [drawOf, h]

@[simp] theorem entropyFill_cons (bytes : List Byte) (rest : List (List Byte)) (fresh : Nat) :
    entropyFill (bytes :: rest) fresh = (drawOf bytes, rest, fresh) := rfl

/-- A loop that builds every slot answers one built slot with a free flag for each. -/
theorem construct_built {accepts : Block → Bool} {count i : Nat} {supply : List (List Byte)} {fresh : Nat}
    {slots : List Slot} {rest : List (List Byte) × Nat}
    (h : construct accepts count i supply fresh = (.built slots, rest)) :
    slots.length = count ∧ ∀ x ∈ slots, ∃ e, x = builtSlot e := by
  induction count generalizing i supply fresh slots rest with
  | zero =>
    simp only [construct, Prod.mk.injEq, Construction.built.injEq] at h
    obtain ⟨rfl, -⟩ := h
    simp
  | succ count ih =>
    simp only [construct] at h
    split at h
    · cases h
    · split at h
      · split at h
        · rename_i hc
          simp only [Prod.mk.injEq, Construction.built.injEq] at h
          obtain ⟨rfl, -⟩ := h
          obtain ⟨hl, hb⟩ := ih hc
          refine ⟨by simp [hl], fun x hx => ?_⟩
          rcases List.mem_cons.1 hx with rfl | hx
          · exact ⟨_, rfl⟩
          · exact hb x hx
        · cases h
      · cases h

/-- A loop that fails names a cause, and a slot of the loop. -/
theorem construct_failed {accepts : Block → Bool} {count i : Nat} {supply : List (List Byte)} {fresh : Nat}
    {cause : FCause} {slot : Nat} {rest : List (List Byte) × Nat}
    (h : construct accepts count i supply fresh = (.failed cause slot, rest)) :
    (cause = .entropyUnavailable ∨ cause = .cipherConstruct) ∧ i ≤ slot ∧ slot < i + count := by
  induction count generalizing i supply fresh rest with
  | zero => simp [construct] at h
  | succ count ih =>
    simp only [construct] at h
    split at h
    · cases h; exact ⟨.inl rfl, le_refl _, by omega⟩
    · split at h
      · split at h
        · cases h
        · rename_i hc
          cases h
          obtain ⟨hcause, hle, hlt⟩ := ih hc
          exact ⟨hcause, by omega, by omega⟩
      · cases h; exact ⟨.inr rfl, le_refl _, by omega⟩

end Sys2Proof.Machine
end

