-- ==== Sys2Proof/Laws/PerInstr.lean ====
section
/-! SUPPORT. The per-instruction family WordShape: the shape of every operation's command. -/

namespace Sys2Proof.Laws.WordShape

/-- The command of an operation has ZERO = 0b0000 (30_encoding.md R71), and the payload its word announces
(R73). -/
def Statement (i : Instr) : Prop :=
  zeroOf (encode i).word = 0 ∧
    (i.wf Config.maxSlots = true → (encode i).payload.length = payloadLength (encode i).word)

theorem init : Statement .init := by simp [Statement, Sys2Proof.encode, payloadLength]

theorem claim (slot : Byte) : Statement (.claim slot) := by simp [Statement, Sys2Proof.encode, payloadLength]

theorem advance (slot : Byte) : Statement (.advance slot) := by simp [Statement, Sys2Proof.encode, payloadLength]

theorem encode : Statement .encode := by simp [Statement, Sys2Proof.encode, payloadLength]

theorem release (slot : Byte) : Statement (.release slot) := by simp [Statement, Sys2Proof.encode, payloadLength]

theorem next (start : Byte) : Statement (.next start) := by simp [Statement, Sys2Proof.encode, payloadLength]

theorem iswf (payload : List Byte) : Statement (.iswf payload) := by
  simp only [Statement, Sys2Proof.encode, payloadLength, zeroOf_commandWord, opcOf_commandWord, argOf_commandWord,
    Instr.wf, decide_eq_true_eq, if_true, true_and]
  intro h
  rw [BitVec.toNat_ofNat]
  omega

theorem genv4 : Statement .genv4 := by simp [Statement, Sys2Proof.encode, payloadLength]

end Sys2Proof.Laws.WordShape
end

