-- ==== Sys2Proof/Laws/Safety.lean ====
section
/-! SUPPORT. What the invariant depends on, and what a step can be. -/

namespace Sys2Proof.Machine

/-- A property of every member, by position. -/
theorem forall_mem_iff_getElem? {α : Type} {l : List α} {P : α → Prop} :
    (∀ x ∈ l, P x) ↔ ∀ (i : Nat) (x : α), l[i]? = some x → P x := by
  constructor
  · intro h i x hx
    exact h x (List.mem_of_getElem? hx)
  · intro h x hx
    obtain ⟨i, hi⟩ := List.getElem?_of_mem hx
    exact h i x hi

/-- The invariant is about the status, the slots and the ports alone. -/
theorem Inv.congr {s t : State} (h : Inv s) (hp : t.phase = s.phase) (hc : t.fcause = s.fcause)
    (hf : t.finfo = s.finfo) (hs : t.slots = s.slots) (hq : t.ports = s.ports) : Inv t := by
  have hn : t.nSlots = s.nSlots := by simp [State.nSlots, hs]
  have hfl : ∀ i, t.flag i = s.flag i := by simp [State.flag, hs]
  have hh : ∀ p, t.held p = s.held p := by simp [State.held, hq]
  have hch : ∀ i, t.chain i = s.chain i := by simp [State.chain, hs]
  constructor
  · rw [hp, hn]; exact h.poolLegal
  · rw [hp, hs]; exact h.built
  · rw [hp, hs]; exact h.flagsFree
  · rw [hp, hq]; exact h.portsIdle
  · simp only [hfl, hh]; exact h.flagIffHeld
  · simp only [hh]; exact h.exclusive
  · rw [hq, hn]; exact h.indexInRange
  · rw [hq]
    intro x hx
    have hx := h.portsSound x hx
    unfold PortSound at *
    rw [hn]
    simpa only [hch] using hx
  · rw [hq]; exact h.identsWellFormed
  · rw [hp, hc]; exact h.faultRecorded
  · rw [hc, hf]; exact h.infoZero

/-- The next event leaves everything but the inputs and the counter as it was. -/
theorem nextEvent_state (s : State) : ∃ inputs fresh, (nextEvent s).2 = { s with inputs := inputs, fresh := fresh } := by
  unfold nextEvent
  split <;> exact ⟨_, _, rfl⟩

/-- Everything a step that answers a next state can be: an agent's operation, a port's next step, a hardware
reset. -/
theorem step_cases {s t : State} (h : step s = .next t) :
    (∃ a c i, s.event = .command a c ∧ decode s.nSlots c = .ok i ∧
      exec i { (nextEvent s).2 with issuer := a } = .next t) ∨
    (∃ p, s.event = .proceed p ∧ proceed p { (nextEvent s).2 with issuer := .port p } = .next t) ∨
    (s.event = .hardwareReset ∧ t = hardwareReset (nextEvent s).2) := by
  obtain ⟨inputs, fresh, hs⟩ := nextEvent_state s
  have hn : (nextEvent s).2.nSlots = s.nSlots := by rw [hs]; rfl
  unfold step handle at h
  split at h <;> rename_i he
  · obtain ⟨i, hd, hx⟩ := present_next h
    exact .inl ⟨_, _, i, he, by rw [← hn]; exact hd, hx⟩
  · exact .inr (.inl ⟨_, he, h⟩)
  · cases h
    exact .inr (.inr ⟨he, rfl⟩)

end Sys2Proof.Machine
end

