-- ==== Sys2Proof/Tests/Slice0.lean ====
section
/-! SUPPORT. Small tests with results taken from the spec (spec/95_test_vectors.md unless said otherwise), and for
every statement with hypotheses a witness that they can be met. -/

namespace Sys2Proof.Machine.Tests

/-! ### Small machines -/

/-- Sixteen bytes. -/
def keyA : Block := #v[0x00, 0x01, 0x02, 0x03, 0x04, 0x05, 0x06, 0x07, 0x08, 0x09, 0x0a, 0x0b, 0x0c, 0x0d, 0x0e, 0x0f]
def seedA : Block := #v[0x00, 0x11, 0x22, 0x33, 0x44, 0x55, 0x66, 0x77, 0x88, 0x99, 0xaa, 0xbb, 0xcc, 0xdd, 0xee, 0xff]
def outA : Block := #v[0x69, 0xc4, 0xe0, 0xd8, 0x6a, 0x7b, 0x04, 0x30, 0xd8, 0xcd, 0xb7, 0x80, 0x70, 0xb4, 0xc5, 0x5a]
def keyD : Block := #v[0x10, 0x11, 0x12, 0x13, 0x14, 0x15, 0x16, 0x17, 0x18, 0x19, 0x1a, 0x1b, 0x1c, 0x1d, 0x1e, 0x1f]
def seedD : Block := #v[0xf0, 0xe0, 0xd0, 0xc0, 0xb0, 0xa0, 0x90, 0x80, 0x70, 0x60, 0x50, 0x40, 0x30, 0x20, 0x10, 0x00]

/-- The draws d0 and d1. -/
def drawA : EntropyRecord := keyA ++ seedA
def drawD : EntropyRecord := keyD ++ seedD

/-- The bytes of an ASCII string. -/
def ascii (t : String) : List Byte := t.toList.map fun ch => BitVec.ofNat 8 ch.toNat

/-- A READY machine: two slots with the given flags, two ports in the given states, port 0 issuing. -/
def machine (f0 f1 : Flag) (x0 x1 : Port) : State :=
  { State.resetWith 2 2 with
    phase := .ready, issuer := .port 0
    slots := [⟨.written keyA, .written seedA, f0⟩, ⟨.written keyD, .written seedD, f1⟩]
    ports := [x0, x1] }

/-- An idle port that holds slot `i`. -/
def holding (i : Nat) : Port := { Port.reset with held := some i }

/-- A port scanning at index `i`. -/
def scanning (i : Nat) : Port := { Port.reset with pstate := .scan, idx := .written i }

/-- A port in adv, enc and rel on slot 0. -/
def inAdv : Port := { Port.reset with pstate := .adv, idx := .written 0, held := some 0 }
def inEnc : Port := { inAdv with pstate := .enc, raw := .written seedA }
def inRel : Port := { inEnc with pstate := .rel, str := .written (encodeBlock seedA) }

/-- The machine with events to come. -/
def withInputs (l : List Event) (s : State) : State := { s with inputs := l }

/-- A machine in RESET with `n` slots and the supply given, INIT to be issued by `a`. -/
def resetting (n : Nat) (a : Agent) (supply : List (List Byte)) : State :=
  { State.resetWith n 1 with issuer := a, supply := supply }

/-- What a next state shows; none where the step stops. -/
def after {α : Type} (f : State → α) : Result → Option α
  | .next t => some (f t)
  | .fault _ => none
  | .refused _ => none

/-- The fault of an outcome. -/
def faultOf : Result → Option Fault
  | .fault r => some r
  | .next _ => none
  | .refused _ => none

/-- The refusal of an outcome. -/
def refusalOf : Result → Option Refusal
  | .refused r => some r
  | .next _ => none
  | .fault _ => none

/-! ### WellFormed refuses an ill-formed term, one for each check -/

theorem test_wf_claim : Instr.wf 4 (.claim 4) = false ∧ Instr.wf 4 (.claim 3) = true := by decide
theorem test_wf_advance : Instr.wf 4 (.advance 4) = false ∧ Instr.wf 4 (.advance 3) = true := by decide
theorem test_wf_release : Instr.wf 4 (.release 4) = false ∧ Instr.wf 4 (.release 3) = true := by decide
theorem test_wf_iswf :
    Instr.wf 4 (.iswf (List.replicate 256 0)) = false ∧ Instr.wf 4 (.iswf (List.replicate 255 0)) = true := by
  simp only [Instr.wf, List.length_replicate]; decide

/-! ### Words written out from 30_encoding.md R71, R75: OPC, ZERO, ARG -/

theorem test_decode_init : decode 4 ⟨0b0001000000000000, []⟩ = .ok .init := by decide
theorem test_decode_claim : decode 4 ⟨0b0010000000000011, []⟩ = .ok (.claim 3) := by decide
theorem test_decode_advance : decode 4 ⟨0b0011000000000010, []⟩ = .ok (.advance 2) := by decide
theorem test_decode_encode : decode 4 ⟨0b0100000000000000, []⟩ = .ok .encode := by decide
theorem test_decode_release : decode 4 ⟨0b0101000000000001, []⟩ = .ok (.release 1) := by decide
theorem test_decode_next : decode 4 ⟨0b0110000011111111, []⟩ = .ok (.next 255) := by decide
theorem test_decode_iswf : decode 4 ⟨0b0111000000000010, [0x2D, 0x66]⟩ = .ok (.iswf [0x2D, 0x66]) := by decide
theorem test_decode_genv4 : decode 4 ⟨0b0110000000000000, []⟩ = .ok .genv4 := by decide
theorem test_decode_payload_length : decode 4 ⟨0x7002, [0x2D]⟩ = .error .payloadLength := by decide
theorem test_decode_table_word :
    decodeTableWord 16 0x20FF = some (.claim 255) ∧ decodeTableWord 16 0x7001 = some (.iswf [0]) := by decide

/-! ### One step of each operation -/

/-- V5.1, V5.2. -/
theorem test_claim : after (fun t => (t.flag 1, t.held 0, t.out)) (exec (.claim 1) (machine .free .free .reset .reset)) =
    some (some .claimed, some 1, some (.port 0, .bit true)) := by decide
theorem test_claim_taken : after (fun t => (t.flag 1, t.held 0, t.out))
    (exec (.claim 1) (machine .free .claimed .reset (holding 1))) =
    some (some .claimed, none, some (.port 0, .bit false)) := by decide

/-- V3.A, n = 1; and V5.6's like for ADVANCE (R242). -/
theorem test_advance : after (fun t => (t.chain 0, t.out)) (exec (.advance 0) (machine .claimed .free (holding 0) .reset)) =
    some (.written outA, some (.port 0, .block outA)) := by decide +kernel
theorem test_advance_foreign : faultOf (exec (.advance 1) (machine .claimed .free (holding 0) .reset)) = some .notHolder := by
  decide

/-- V4.4, V4.12. -/
theorem test_encode : (encodeBlock #v[0x01, 0x23, 0x45, 0x67, 0x89, 0xab, 0xcd, 0xef,
    0xfe, 0xdc, 0xba, 0x98, 0x76, 0x54, 0x32, 0x10]).toList = ascii "10325476-89ab-4def-bedc-ba9876543210" := by decide
theorem test_encode_forced_bits : (encodeBlock #v[0x00, 0x00, 0x00, 0x00, 0x00, 0x00, 0xf0, 0x00,
    0xc0, 0x00, 0x00, 0x00, 0x00, 0x00, 0x00, 0x00]).toList = ascii "00000000-0000-4000-8000-000000000000" := by decide

/-- V5.4, V5.6. -/
theorem test_release : after (fun t => ((t.flag 0, t.flag 1), (t.held 0, t.out)))
    (exec (.release 0) (machine .claimed .claimed (holding 0) (holding 1))) =
    some ((some .free, some .claimed), (none, some (.port 0, .done))) := by decide
theorem test_release_foreign : faultOf (exec (.release 1) (machine .claimed .claimed (holding 0) (holding 1))) =
    some .notHolder := by decide

/-- V6.4's acceptance (start 3 folds to 1), and the scan that fails at slot 0 (V6.5). -/
theorem test_next_accept : after (fun t => t.ports[0]?) (exec (.next 3) (machine .free .free .reset .reset)) =
    some (some (scanning 1)) := by decide
theorem test_next_scan_wraps : after (fun t => t.ports[0]?) (proceed 0 (machine .free .claimed (scanning 1) (holding 1))) =
    some (some (scanning 0)) := by decide

/-- GENV4 starts at 0 (V6.1), and is refused in FATAL (P5). -/
theorem test_genv4 : after (fun t => t.ports[0]?) (exec .genv4 (machine .free .free .reset .reset)) =
    some (some (scanning 0)) := by decide
theorem test_genv4_fatal : refusalOf (exec .genv4 { machine .free .free .reset .reset with phase := .fatal }) =
    some (.notEnabled .fatal) := by decide

/-- V7.2, V7.12. -/
theorem test_iswf : after (fun t => t.out) (exec (.iswf (ascii "964C0E8D-6A7B-4430-98CD-B78070B4C55A"))
    (machine .free .free .reset .reset)) = some (some (.port 0, .bit true)) := by decide
theorem test_iswf_shifted : after (fun t => t.out) (exec (.iswf (ascii "964c0e8d6-a7b4-4309-8cdb-78070b4c55a"))
    (machine .free .free .reset .reset)) = some (some (.port 0, .bit false)) := by decide

/-- V8.2, V8.7. -/
theorem test_init : after (fun t => (t.phase, t.key 1, t.chain 1, t.flag 1))
    (exec .init (resetting 2 .host [drawA.toList, drawD.toList])) =
    some (.ready, .written keyD, .written seedD, some .free) := by decide
theorem test_init_entropy : after (fun t => t.hostStatus) (exec .init (resetting 4 .host [drawA.toList, []])) =
    some (2, 2, 1) := by decide

/-- V8.3, V8.5, V8.9: the other two causes. -/
theorem test_init_pool_size : (initWith cipherConstruct (resetting 3 .host [])).hostStatus = (2, 1, 3) ∧
    (initWith cipherConstruct (resetting 1000 .host [])).hostStatus = (2, 1, 511) := by decide +kernel
theorem test_init_cipher : (initWith (fun k => k != keyD) (resetting 2 .host [drawA.toList, drawD.toList])).hostStatus =
    (2, 3, 1) := by decide

/-! ### Witnesses: the invariant -/

/-- A machine of the given flags and ports is sound where the flags are those of the holders. -/
theorem inv_machine (f0 f1 : Flag) (x0 x1 : Port)
    (h0 : (machine f0 f1 x0 x1).flag 0 = some .claimed ↔ (x0.held = some 0 ∨ x1.held = some 0))
    (h1 : (machine f0 f1 x0 x1).flag 1 = some .claimed ↔ (x0.held = some 1 ∨ x1.held = some 1))
    (hr : ∀ i, (x0.held = some i ∨ x1.held = some i) → i < 2)
    (he : x0.held = none ∨ x0.held ≠ x1.held)
    (hi : ∀ x, x = x0 ∨ x = x1 → ∀ i, x.idx = .written i → i < 2)
    (hp : ∀ x, x = x0 ∨ x = x1 → PortSound (machine f0 f1 x0 x1) x)
    (hs : ∀ x, x = x0 ∨ x = x1 → ∀ u, x.str = .written u → isWellFormed u.toList = true) :
    Inv (machine f0 f1 x0 x1) := by
  have hh : ∀ p i, (machine f0 f1 x0 x1).held p = some i → (p = 0 ∧ x0.held = some i) ∨ (p = 1 ∧ x1.held = some i) := by
    intro p i h
    match p with
    | 0 => exact .inl ⟨rfl, h⟩
    | 1 => exact .inr ⟨rfl, h⟩
    | n + 2 => simp [machine, State.held] at h
  constructor
  · intro _; show poolSizeOk 2 = true; decide
  · intro _ x hx
    simp only [machine, List.mem_cons, List.not_mem_nil, or_false] at hx
    rcases hx with rfl | rfl <;> exact ⟨⟨_, rfl⟩, ⟨_, rfl⟩⟩
  · intro h; exact absurd rfl h
  · intro h; exact absurd rfl h
  · intro i
    have hold : ∀ j, (x0.held = some j ∨ x1.held = some j) ↔ ∃ p, (machine f0 f1 x0 x1).held p = some j := by
      intro j
      constructor
      · rintro (h | h)
        · exact ⟨0, h⟩
        · exact ⟨1, h⟩
      · rintro ⟨p, h⟩
        rcases hh p j h with ⟨-, h⟩ | ⟨-, h⟩
        · exact .inl h
        · exact .inr h
    rw [← hold]
    match i with
    | 0 => exact h0
    | 1 => exact h1
    | n + 2 =>
      constructor
      · intro h; simp [machine, State.flag] at h
      · intro h; exact absurd (hr _ h) (by omega)
  · intro p q i ha hb
    rcases hh p i ha with ⟨rfl, ha⟩ | ⟨rfl, ha⟩ <;> rcases hh q i hb with ⟨rfl, hb⟩ | ⟨rfl, hb⟩ <;>
      first | rfl | (exfalso; rcases he with he | he <;> simp_all)
  · intro x hx; exact hi x (by simpa [machine] using hx)
  · intro x hx; exact hp x (by simpa [machine] using hx)
  · intro x hx; exact hs x (by simpa [machine] using hx)
  · exact ⟨(fun h => nomatch h), fun h => absurd rfl h⟩
  · intro _; rfl

/-- Port 0 holds slot 0 and is idle. -/
def held0 : State := machine .claimed .free (holding 0) .reset

theorem witness_inv_idle : Inv (machine .free .free .reset .reset) := by
  apply inv_machine <;> simp [machine, State.flag, Port.reset, PortSound]

theorem witness_inv_holding : Inv held0 := by
  apply inv_machine <;> simp [machine, State.flag, Port.reset, PortSound, holding]

theorem witness_inv_scan : Inv (machine .free .free (scanning 1) .reset) := by
  apply inv_machine <;> simp [machine, State.flag, Port.reset, PortSound, scanning, State.nSlots]

theorem witness_inv_adv : Inv (machine .claimed .free inAdv .reset) := by
  apply inv_machine <;> simp [machine, State.flag, Port.reset, PortSound, inAdv, State.nSlots]

theorem witness_inv_enc : Inv (machine .claimed .free inEnc .reset) := by
  apply inv_machine <;> simp [machine, State.flag, State.chain, Port.reset, PortSound, inEnc, inAdv]

theorem witness_inv_rel : Inv (machine .claimed .free inRel .reset) := by
  apply inv_machine <;> simp [machine, State.flag, State.chain, Port.reset, PortSound, inRel, inEnc, inAdv]
  decide

/-- The invariant does not depend on what is to come. -/
theorem inv_withInputs {s : State} (h : Inv s) (l : List Event) : Inv (withInputs l s) := by
  exact h.congr rfl rfl rfl rfl rfl

/-! ### Witnesses: one for the hypotheses of each statement, and for each clause that has its own -/

theorem witness_DecodeInvertsEncode : Instr.wf 256 (.claim 255) = true ∧ Instr.wf 1 (.release 0) = true ∧
    Instr.wf 1 (.next 0) = true ∧ Instr.wf 1 (.iswf (List.replicate 255 0)) = true := by
  simp only [Instr.wf, List.length_replicate]; decide

theorem witness_EncodeInvertsDecode : decode 4 ⟨0x2003, []⟩ = .ok (.claim 3) ∧ decode 1 ⟨0x6000, []⟩ = .ok .genv4 := by
  decide

/-- Each kind of reserved word at a boundary (N_SLOTS = 2), and words next to them. -/
theorem witness_ReservedWordsNameNothing :
    ((withInputs [.command (.port 0) ⟨0x2002, []⟩] held0).inputs = [.command (.port 0) ⟨0x2002, []⟩] ∧
      held0.nSlots = 2 ∧ ([] : List Byte).length = payloadLength 0x2002) ∧
    (decode 2 ⟨0x2002, []⟩ = .error .reservedSlot ∧ decode 2 ⟨0x50FF, []⟩ = .error .reservedSlot ∧
      decode 2 ⟨0x0000, []⟩ = .error .reservedOpcode ∧ decode 2 ⟨0x8000, []⟩ = .error .reservedOpcode ∧
      decode 2 ⟨0xF000, []⟩ = .error .reservedOpcode ∧ decode 2 ⟨0x1001, []⟩ = .error .nonzeroArg ∧
      decode 2 ⟨0x40FF, []⟩ = .error .nonzeroArg ∧ decode 2 ⟨0x6100, []⟩ = .error .nonzeroZero) ∧
    (decode 2 ⟨0x2001, []⟩ = .ok (.claim 1) ∧ decode 2 ⟨0x1000, []⟩ = .ok .init ∧
      decode 2 ⟨0x7000, []⟩ = .ok (.iswf [])) := by decide

theorem witness_StepRunsDecodedInstruction :
    (withInputs [.command .host ⟨0x1000, []⟩] State.reset).inputs = [.command .host ⟨0x1000, []⟩] ∧
    decode (withInputs [.command .host ⟨0x1000, []⟩] State.reset).nSlots ⟨0x1000, []⟩ = .ok .init := by decide

theorem witness_StepHandlesOtherEvents :
    (withInputs [.proceed 0] held0).inputs = [.proceed 0] ∧
    (withInputs [.hardwareReset] held0).inputs = [.hardwareReset] ∧ (withInputs [] held0).inputs = [] := by decide

theorem witness_UnwrittenLatchesFault :
    (held0.ports[0]? = some (holding 0) ∧ (holding 0).str = .unwritten ∧ (holding 0).wf = .unwritten) ∧
    ((machine .claimed .free { inRel with wf := .written true } .reset).ports[0]? =
        some { inRel with wf := .written true } ∧
      inRel.str = .written (encodeBlock seedA) ∧ ({ inRel with wf := .written true } : Port).wf = .written true) := by
  decide

theorem witness_PhaseTransitions :
    after (fun t => t.phase) (step (withInputs [.hardwareReset] held0)) = some .reset ∧
    after (fun t => t.phase) (step (withInputs [.command (.port 0) ⟨0x5000, []⟩] held0)) = some .ready ∧
    after (fun t => t.phase) (step (withInputs [.command .host ⟨0x1000, []⟩] (resetting 1 .host [drawA.toList]))) =
      some .ready ∧
    after (fun t => t.phase) (step (withInputs [.command .host ⟨0x1000, []⟩] (resetting 3 .host []))) = some .fatal :=
  ⟨by decide, by decide, by decide, by decide⟩

/-- ADVANCE 0 by its holder is the next step of a READY machine. -/
def advancing : State := withInputs [.command (.port 0) ⟨0x3000, []⟩] held0

theorem witness_KeysNeverRewritten :
    advancing.phase = .ready ∧ advancing.event ≠ .hardwareReset ∧ ∃ t, step advancing = .next t :=
  ⟨rfl, by decide, _, rfl⟩

/-- Two machines that differ in a key. -/
theorem witness_KeysInvisible :
    eraseKeys held0 = eraseKeys { held0 with slots := [⟨.written keyD, .written seedA, .claimed⟩, ⟨.written keyD, .written seedD, .free⟩] } ∧
    held0 ≠ { held0 with slots := [⟨.written keyD, .written seedA, .claimed⟩, ⟨.written keyD, .written seedD, .free⟩] } ∧
    (∀ slot, Instr.encode ≠ .advance slot) ∧
    (∀ x, held0.ports[0]? = some x → x.pstate ≠ .adv) := by
  refine ⟨rfl, by decide, by simp, ?_⟩
  intro x hx
  cases hx
  decide

theorem witness_ParametersFixed : ∃ t, step advancing = .next t := ⟨_, rfl⟩

theorem witness_AtomicPrimitives :
    held0.flag 1 = some .free ∧ held0.flag 0 = some .claimed ∧ 1 < held0.nSlots := by decide

theorem witness_InvariantKept : ∃ t, Inv advancing ∧ step advancing = .next t :=
  ⟨_, inv_withInputs witness_inv_holding _, rfl⟩

theorem witness_OnlyTheHolderAdvances : ∃ t, advancing.phase = .ready ∧ advancing.event ≠ .hardwareReset ∧
    step advancing = .next t ∧ t.chain 0 ≠ advancing.chain 0 := by
  refine ⟨_, rfl, by decide, rfl, ?_⟩
  decide +kernel

theorem witness_FlagsChange_claim :
    ∃ t, Inv (withInputs [.proceed 0] (machine .free .free (scanning 1) .reset)) ∧
      step (withInputs [.proceed 0] (machine .free .free (scanning 1) .reset)) = .next t ∧
      t.flag 1 ≠ (machine .free .free (scanning 1) .reset).flag 1 :=
  ⟨_, inv_withInputs witness_inv_scan _, rfl, by decide⟩

theorem witness_FlagsChange_release :
    ∃ t, Inv (withInputs [.command (.port 0) ⟨0x5000, []⟩] held0) ∧
      step (withInputs [.command (.port 0) ⟨0x5000, []⟩] held0) = .next t ∧ t.flag 0 ≠ held0.flag 0 :=
  ⟨_, inv_withInputs witness_inv_holding _, rfl, by decide⟩

theorem witness_ClaimedFlagsBounded : Inv held0 ∧ held0.mPorts ≤ held0.nSlots ∧
    held0.ports[1]? = some .reset ∧ Port.reset.held = none := ⟨witness_inv_holding, by decide, rfl, rfl⟩

theorem witness_PortsArePrivate : ∃ t, step advancing = .next t ∧ advancing.actor = some (.port 0) ∧
    Agent.port 0 ≠ .port 1 := ⟨_, rfl, rfl, by decide⟩

theorem witness_NextIsNeverStuck :
    (Inv (machine .free .free (scanning 1) .reset) ∧ (scanning 1).pstate ≠ .idle) ∧
    (Inv (machine .claimed .free inAdv .reset) ∧ inAdv.pstate ≠ .idle) ∧
    (Inv (machine .claimed .free inEnc .reset) ∧ inEnc.pstate ≠ .idle) ∧
    (Inv (machine .claimed .free inRel .reset) ∧ inRel.pstate ≠ .idle) :=
  ⟨⟨witness_inv_scan, by decide⟩, ⟨witness_inv_adv, by decide⟩, ⟨witness_inv_enc, by decide⟩, ⟨witness_inv_rel, by decide⟩⟩

theorem witness_ScanSpinsWhileAllTaken :
    let s := withInputs [.proceed 0, .proceed 0] (machine .claimed .claimed (scanning 1) .reset)
    s.phase = .ready ∧ s.ports[0]? = some (scanning 1) ∧ (scanning 1).pstate = .scan ∧
      (scanning 1).idx = .written 1 ∧ (∀ j, s.flag j ≠ some .free) ∧
      s.inputs = List.replicate 2 (.proceed 0) ++ [] := by
  refine ⟨rfl, rfl, rfl, rfl, ?_, rfl⟩
  intro j
  match j with
  | 0 => decide
  | 1 => decide
  | n + 2 => simp [machine, State.flag, withInputs]

theorem witness_AdvanceEncryptsTheChain : ReadyFor 0 (holding 0) held0 ∧ (holding 0).held = some (0 : Byte).toNat ∧
    held0.key 0 = .written keyA ∧ held0.chain 0 = .written seedA := ⟨⟨⟨rfl, rfl, rfl⟩, rfl⟩, rfl, rfl, rfl⟩

theorem witness_SlotStream : advancing.phase = .ready ∧ advancing.key 0 = .written keyA ∧
    advancing.chain 0 = .written seedA ∧ (countAdvances 0 1 advancing).map Prod.fst = some 1 ∧
    countAdvances 0 0 advancing = some (0, advancing) ∧ advances 0 advancing = true ∧
    (∃ u, step advancing = .next u) := by
  refine ⟨rfl, rfl, rfl, ?_, rfl, by decide, _, rfl⟩
  decide +kernel

theorem witness_EncodeFormatsTheLatch :
    ReadyFor 0 { Port.reset with raw := .written seedA } (machine .free .free { Port.reset with raw := .written seedA } .reset) :=
  ⟨⟨rfl, rfl, rfl⟩, rfl⟩

theorem witness_EncodeCharacters : (0 < 16 ∧ 0 ≤ 3) ∧ (3 < 16 ∧ 3 ≤ 3) ∧ (6 < 16) ∧ (8 < 16) ∧ (15 < 16) := by decide

theorem witness_VersionCharacter : lo4 0xF6 = lo4 seedA[6] ∧ (0xF6 : Byte) ≠ seedA[6] := by decide

theorem witness_VariantCharacters :
    (0xC8 : Byte).extractLsb' 0 6 = seedA[8].extractLsb' 0 6 ∧ (0xC8 : Byte) ≠ seedA[8] := by decide

theorem witness_ClaimOfFreeSlotSucceeds :
    let s := machine .free .claimed .reset (holding 1)
    ReadyFor 0 .reset s ∧ Port.reset.held = none ∧ s.flag (0 : Byte).toNat = some .free :=
  ⟨⟨⟨rfl, rfl, rfl⟩, rfl⟩, rfl, rfl⟩

theorem witness_ClaimOfTakenSlotFails :
    let s := machine .free .claimed .reset (holding 1)
    ReadyFor 0 .reset s ∧ Port.reset.held = none ∧ s.flag (1 : Byte).toNat = some .claimed :=
  ⟨⟨⟨rfl, rfl, rfl⟩, rfl⟩, rfl, rfl⟩

theorem witness_ReleaseFreesTheSlot : ReadyFor 0 (holding 0) held0 ∧ (holding 0).held = some (0 : Byte).toNat ∧
    (0 : Byte).toNat < held0.nSlots := ⟨⟨⟨rfl, rfl, rfl⟩, rfl⟩, rfl, by decide⟩

theorem witness_NextIsAccepted : ReadyFor 0 .reset (machine .free .free .reset .reset) ∧ Port.reset.held = none :=
  ⟨⟨⟨rfl, rfl, rfl⟩, rfl⟩, rfl⟩

theorem witness_ScanStep :
    let s := withInputs [.proceed 0] (machine .free .claimed (scanning 0) (holding 1))
    let s' := withInputs [.proceed 0] (machine .free .claimed (scanning 1) (holding 1))
    (s.inputs = [.proceed 0] ∧ s.phase = .ready ∧ s.ports[0]? = some (scanning 0) ∧ (scanning 0).pstate = .scan ∧
      (scanning 0).idx = .written 0 ∧ s.flag 0 = some .free) ∧
    (s'.inputs = [.proceed 0] ∧ s'.phase = .ready ∧ s'.ports[0]? = some (scanning 1) ∧ (scanning 1).pstate = .scan ∧
      (scanning 1).idx = .written 1 ∧ s'.flag 1 ≠ some .free) := by decide

theorem witness_AdvEncRelSteps :
    (let s := withInputs [.proceed 0] (machine .claimed .free inAdv .reset)
     s.inputs = [.proceed 0] ∧ s.phase = .ready ∧ s.ports[0]? = some inAdv ∧ inAdv.pstate = .adv ∧
      inAdv.held = some 0 ∧ s.key 0 = .written keyA ∧ s.chain 0 = .written seedA) ∧
    (let s := withInputs [.proceed 0] (machine .claimed .free inEnc .reset)
     s.ports[0]? = some inEnc ∧ inEnc.pstate = .enc ∧ inEnc.raw = .written seedA) ∧
    (let s := withInputs [.proceed 0] (machine .claimed .free inRel .reset)
     s.ports[0]? = some inRel ∧ inRel.pstate = .rel ∧ inRel.held = some 0 ∧ 0 < s.nSlots ∧
      inRel.str = .written (encodeBlock seedA)) := by decide

/-- The smallest and the largest pool, at their last slot. -/
theorem witness_ScanIndexArithmetic :
    (poolSizeOk (State.resetWith 1 1).nSlots = true ∧ 0 + 1 = (State.resetWith 1 1).nSlots) ∧
    (poolSizeOk State.reset.nSlots = true ∧ 255 + 1 = State.reset.nSlots ∧ 254 + 1 < State.reset.nSlots) := by
  decide +kernel

/-- V6.1 (k = 1), and V6.5 (k = 2) with port 0 as the caller and slot 0 held by port 1. -/
theorem witness_NextTakesKPlusFourSteps :
    (let s := withInputs (.command (.port 0) ⟨commandWord 0x6 0, []⟩ :: (List.replicate (1 + 3) (.proceed 0) ++ []))
        (machine .free .free .reset .reset)
     0 < 1 ∧ s.phase = .ready ∧ s.ports[0]? = some .reset ∧ Port.reset.pstate = .idle ∧ Port.reset.held = none ∧
      0 = (fun j => nextIndex j s)^[1 - 1] (startIndex 0 s) ∧
      s.flag 0 = some .free ∧ s.key 0 = .written keyA ∧ s.chain 0 = .written seedA) ∧
    (let s := withInputs (.command (.port 0) ⟨commandWord 0x6 0, []⟩ :: (List.replicate (2 + 3) (.proceed 0) ++ []))
        (machine .claimed .free .reset (holding 0))
     0 < 2 ∧ s.phase = .ready ∧ s.ports[0]? = some .reset ∧ 1 = (fun j => nextIndex j s)^[2 - 1] (startIndex 0 s) ∧
      (∀ j, j < 2 - 1 → s.flag ((fun j => nextIndex j s)^[j] (startIndex 0 s)) = some .claimed) ∧
      s.flag 1 = some .free ∧ s.key 1 = .written keyD ∧ s.chain 1 = .written seedD) := by
  decide

theorem witness_ReturnedIdentifiersWellFormed :
    ∃ t, Inv (withInputs [.proceed 0] (machine .claimed .free inRel .reset)) ∧
      step (withInputs [.proceed 0] (machine .claimed .free inRel .reset)) = .next t ∧
      t.out = some (.port 0, .ident (encodeBlock seedA)) := ⟨_, inv_withInputs witness_inv_rel _, rfl, rfl⟩

/-- ISWF is enabled in RESET, READY and FATAL. -/
theorem witness_IswfChecksTheShape :
    IssuedBy 0 .reset { State.resetWith 1 1 with issuer := .port 0 } ∧
    IssuedBy 0 .reset (machine .free .free .reset .reset) ∧
    IssuedBy 0 .reset { machine .free .free .reset .reset with phase := .fatal } :=
  ⟨⟨rfl, rfl, rfl⟩, ⟨rfl, rfl, rfl⟩, ⟨rfl, rfl, rfl⟩⟩

theorem witness_ValidatorAcceptsIdentifiers : IssuedBy 0 .reset (machine .free .free .reset .reset) := ⟨rfl, rfl, rfl⟩

/-- INIT issued by the host, and by an idle port. -/
theorem witness_InitEndsReadyOrFatal :
    (MayInit (resetting 1 .host []) ∧ (resetting 1 .host []).phase = .reset) ∧
    (MayInit (resetting 1 (.port 0) []) ∧ (resetting 1 (.port 0) []).phase = .reset) :=
  ⟨⟨.inl rfl, rfl⟩, ⟨.inr ⟨0, .reset, rfl, rfl, rfl⟩, rfl⟩⟩

theorem witness_InitConstructsThePool :
    let s := resetting 2 .host [drawA.toList, drawD.toList]
    MayInit s ∧ s.phase = .reset ∧ poolSizeOk s.nSlots = true ∧
      ∀ i, i < s.nSlots → ∃ e : EntropyRecord, s.supply[i]? = some e.toList := by
  refine ⟨.inl rfl, rfl, by decide, ?_⟩
  intro i hi
  match i with
  | 0 => exact ⟨drawA, rfl⟩
  | 1 => exact ⟨drawD, rfl⟩
  | n + 2 => exact absurd hi (by simp [resetting, State.nSlots])

theorem witness_PoolSizeCheck : ∀ n ∈ [0, 3, 255, 257, 512], MayInit (resetting n .host []) ∧
    (resetting n .host []).phase = .reset ∧ (resetting n .host []).nSlots ∉ [1, 2, 4, 8, 16, 32, 64, 128, 256] := by
  intro n hn
  refine ⟨.inl rfl, rfl, ?_⟩
  simp only [resetting, State.nSlots, State.resetWith, List.length_replicate]
  simp only [List.mem_cons, List.not_mem_nil, or_false] at hn
  rcases hn with rfl | rfl | rfl | rfl | rfl <;> simp

/-- The first and the last slot failing, with a missing, a short and a long supply. -/
theorem witness_EntropyFailureIsFatal :
    (let s := resetting 2 .host [[]]
     MayInit s ∧ s.phase = .reset ∧ poolSizeOk s.nSlots = true ∧ 0 < s.nSlots ∧ s.supply[0]? = some [] ∧
      ([] : List Byte).length ≠ 32) ∧
    (let s := resetting 2 .host [drawA.toList, List.replicate 31 0]
     MayInit s ∧ 1 < s.nSlots ∧ (∀ i, i < 1 → ∃ e : EntropyRecord, s.supply[i]? = some e.toList) ∧
      s.supply[1]? = some (List.replicate 31 0) ∧ (List.replicate 31 (0 : Byte)).length ≠ 32) ∧
    (let s := resetting 1 .host [List.replicate 33 0]
     MayInit s ∧ s.supply[0]? = some (List.replicate 33 0) ∧ (List.replicate 33 (0 : Byte)).length ≠ 32) := by
  refine ⟨⟨.inl rfl, rfl, by decide, by decide, rfl, by decide⟩, ⟨.inl rfl, by decide, ?_, rfl, by decide⟩,
    ⟨.inl rfl, rfl, by decide⟩⟩
  intro i hi
  match i with
  | 0 => exact ⟨drawA, rfl⟩
  | n + 1 => exact absurd hi (by omega)

theorem witness_CipherRejectionIsFatal :
    let s := resetting 2 .host [drawA.toList, drawD.toList]
    let accepts := fun k : Block => k != keyD
    poolSizeOk s.nSlots = true ∧ 1 < s.nSlots ∧
      (∀ i, i < 1 → ∃ e : EntropyRecord, s.supply[i]? = some e.toList ∧ accepts (keyHalf e) = true) ∧
      s.supply[1]? = some drawD.toList ∧ accepts (keyHalf drawD) = false := by
  refine ⟨by decide, by decide, ?_, rfl, by decide⟩
  intro i hi
  match i with
  | 0 => exact ⟨drawA, rfl, by decide⟩
  | n + 1 => exact absurd hi (by omega)

theorem witness_FatalIsSticky :
    let s := withInputs [.command (.port 0) ⟨0x7000, []⟩] { machine .free .free .reset .reset with phase := .fatal }
    s.phase = .fatal ∧ s.event ≠ .hardwareReset ∧ ∃ t, step s = .next t := ⟨rfl, by decide, _, rfl⟩

theorem witness_HardwareResetValues : (withInputs [.hardwareReset] held0).inputs = [.hardwareReset] := rfl

/-- An operation that is enabled and one that is not, INIT by the host among them. -/
theorem witness_OperationsEnabledByPhase :
    (Instr.wf held0.nSlots .init = true ∧ (∃ p x, IssuedBy p x held0) ∧ Enabled .init held0.phase = false) ∧
    (Instr.wf held0.nSlots (.release 1) = true ∧ Enabled (.release 1) held0.phase = true) ∧
    (MayInit (resetting 1 .host []) ∧ Enabled .init (resetting 1 .host []).phase = true) :=
  ⟨⟨rfl, ⟨0, holding 0, rfl, rfl, rfl⟩, rfl⟩, ⟨rfl, rfl⟩, ⟨.inl rfl, rfl⟩⟩

/-- Its second clause: INIT in RESET changes the slots. -/
theorem witness_OperationsEnabledByPhase_slots :
    let s := withInputs [.command .host ⟨0x1000, []⟩] (resetting 1 .host [drawA.toList])
    s.phase ≠ .ready ∧ s.event ≠ .hardwareReset ∧
      after (fun t => decide (t.slots ≠ s.slots)) (step s) = some true := by
  refine ⟨by decide, by decide, by decide⟩

/-- Every kind of violation: a slot not held, a nested claim, an unwritten RAW, a busy port. -/
theorem witness_ProtocolViolationsFault :
    (held0.issuer = .port 0 ∧ held0.ports[0]? = some (holding 0) ∧ held0.phase = .ready ∧ (holding 0).pstate = .idle ∧
      (1 : Byte).toNat < held0.nSlots ∧ (holding 0).held ≠ some (1 : Byte).toNat ∧ (holding 0).held ≠ none ∧
      (holding 0).raw = .unwritten) ∧
    (let s := machine .free .free (scanning 1) .reset
     s.issuer = .port 0 ∧ s.ports[0]? = some (scanning 1) ∧ (scanning 1).pstate ≠ .idle ∧
      Instr.wf s.nSlots (.claim 1) = true ∧ Enabled (.claim 1) s.phase = true) := by decide

end Sys2Proof.Machine.Tests
end

/-! SUPPORT. The parameters N_SLOTS and M_PORTS under each update and each meaning (O12), and INIT's loop up to its first
failure (O51). -/

namespace Sys2Proof.Machine

section ParametersOfUpdates

variable (s : State)

@[simp] theorem State.nSlots_setChain (i : Nat) (b : Block) : (s.setChain i b).nSlots = s.nSlots :=
  s.nSlots_modifySlot i _

@[simp] theorem State.nSlots_setFlag (i : Nat) (f : Flag) : (s.setFlag i f).nSlots = s.nSlots :=
  s.nSlots_modifySlot i _

@[simp] theorem State.nSlots_setPState (p : Nat) (q : PState) : (s.setPState p q).nSlots = s.nSlots := rfl

@[simp] theorem State.nSlots_setIdx (p i : Nat) : (s.setIdx p i).nSlots = s.nSlots := rfl

@[simp] theorem State.nSlots_setHeld (p : Nat) (h : Option Nat) : (s.setHeld p h).nSlots = s.nSlots := rfl

@[simp] theorem State.nSlots_setRaw (p : Nat) (b : Block) : (s.setRaw p b).nSlots = s.nSlots := rfl

@[simp] theorem State.nSlots_setStr (p : Nat) (u : Identifier) : (s.setStr p u).nSlots = s.nSlots := rfl

@[simp] theorem State.nSlots_setWf (p : Nat) (b : Bool) : (s.setWf p b).nSlots = s.nSlots := rfl

@[simp] theorem State.mPorts_setChain (i : Nat) (b : Block) : (s.setChain i b).mPorts = s.mPorts := rfl

@[simp] theorem State.mPorts_setFlag (i : Nat) (f : Flag) : (s.setFlag i f).mPorts = s.mPorts := rfl

@[simp] theorem State.mPorts_setPState (p : Nat) (q : PState) : (s.setPState p q).mPorts = s.mPorts :=
  s.mPorts_modifyPort p _

@[simp] theorem State.mPorts_setIdx (p i : Nat) : (s.setIdx p i).mPorts = s.mPorts :=
  s.mPorts_modifyPort p _

@[simp] theorem State.mPorts_setHeld (p : Nat) (h : Option Nat) : (s.setHeld p h).mPorts = s.mPorts :=
  s.mPorts_modifyPort p _

@[simp] theorem State.mPorts_setRaw (p : Nat) (b : Block) : (s.setRaw p b).mPorts = s.mPorts :=
  s.mPorts_modifyPort p _

@[simp] theorem State.mPorts_setStr (p : Nat) (u : Identifier) : (s.setStr p u).mPorts = s.mPorts :=
  s.mPorts_modifyPort p _

@[simp] theorem State.mPorts_setWf (p : Nat) (b : Bool) : (s.setWf p b).mPorts = s.mPorts :=
  s.mPorts_modifyPort p _

@[simp] theorem State.mPorts_hardwareReset : (hardwareReset s).mPorts = s.mPorts := by simp [State.mPorts]

@[simp] theorem State.mPorts_raiseFatal (c : FCause) (n : Nat) : (raiseFatal c n s).mPorts = s.mPorts := rfl

@[simp] theorem nSlots_advanceState (p i : Nat) (y : Block) : (advanceState p i y s).nSlots = s.nSlots := by
  simp [advanceState]

@[simp] theorem mPorts_advanceState (p i : Nat) (y : Block) : (advanceState p i y s).mPorts = s.mPorts := by
  simp [advanceState]

@[simp] theorem nSlots_encodeState (p : Nat) (r : Block) : (encodeState p r s).nSlots = s.nSlots := rfl

@[simp] theorem mPorts_encodeState (p : Nat) (r : Block) : (encodeState p r s).mPorts = s.mPorts := by
  simp [encodeState]

@[simp] theorem nSlots_releaseState (p i : Nat) : (releaseState p i s).nSlots = s.nSlots := by
  simp [releaseState, storeRel]

@[simp] theorem mPorts_releaseState (p i : Nat) : (releaseState p i s).mPorts = s.mPorts := by
  simp [releaseState, storeRel]

@[simp] theorem nSlots_claimState (p i : Nat) : (claimState p i s).2.nSlots = s.nSlots := by
  by_cases h : s.flag i = some .free
  · simp [claimState_free h]
  · simp [claimState_not_free h]

@[simp] theorem mPorts_claimState (p i : Nat) : (claimState p i s).2.mPorts = s.mPorts := by
  by_cases h : s.flag i = some .free
  · simp [claimState_free h]
  · simp [claimState_not_free h]

@[simp] theorem nSlots_nextEvent : (nextEvent s).2.nSlots = s.nSlots := by
  obtain ⟨inputs, fresh, h⟩ := nextEvent_state s
  rw [h]; rfl

@[simp] theorem mPorts_nextEvent : (nextEvent s).2.mPorts = s.mPorts := by
  obtain ⟨inputs, fresh, h⟩ := nextEvent_state s
  rw [h]; rfl

end ParametersOfUpdates

/-! ### INIT: what it comes to after its pool-size check and its loop -/

section InitWith

variable {accepts : Block → Bool} {s : State}

/-- A pool size that fails the check is the first Fatal INIT can raise (44_external_ops.md R186). -/
theorem initWith_badPool (h : poolSizeOk s.nSlots = false) :
    initWith accepts s = raiseFatal .configPoolSize (min s.nSlots 511) s := by
  simp [initWith, h]

/-- A loop that constructs every generator makes the machine READY (44_external_ops.md R185). -/
theorem initWith_built {slots : List Slot} {supply : List (List Byte)} {fresh : Nat}
    (h : poolSizeOk s.nSlots = true)
    (hc : construct accepts s.nSlots 0 s.supply s.fresh = (.built slots, supply, fresh)) :
    initWith accepts s = { s with slots := slots, supply := supply, fresh := fresh, phase := .ready } := by
  simp [initWith, h, hc]

/-- A loop that fails raises Fatal with its cause and its slot (44_external_ops.md R188). -/
theorem initWith_failed {cause : FCause} {slot : Nat} {supply : List (List Byte)} {fresh : Nat}
    (h : poolSizeOk s.nSlots = true)
    (hc : construct accepts s.nSlots 0 s.supply s.fresh = (.failed cause slot, supply, fresh)) :
    initWith accepts s = raiseFatal cause slot { s with supply := supply, fresh := fresh } := by
  simp [initWith, h, hc]

/-- The three ways INIT can end (44_external_ops.md R185, R186, R188). -/
theorem initWith_cases (accepts : Block → Bool) (s : State) :
    initWith accepts s = raiseFatal .configPoolSize (min s.nSlots 511) s ∨
    (∃ slots supply fresh, construct accepts s.nSlots 0 s.supply s.fresh = (.built slots, supply, fresh) ∧
      initWith accepts s = { s with slots := slots, supply := supply, fresh := fresh, phase := .ready }) ∨
    (∃ cause slot supply fresh,
      construct accepts s.nSlots 0 s.supply s.fresh = (.failed cause slot, supply, fresh) ∧
      initWith accepts s = raiseFatal cause slot { s with supply := supply, fresh := fresh }) := by
  cases h : poolSizeOk s.nSlots with
  | false => exact .inl (initWith_badPool h)
  | true =>
    rcases hc : construct accepts s.nSlots 0 s.supply s.fresh with ⟨slots | ⟨cause, slot⟩, supply, fresh⟩
    · exact .inr (.inl ⟨slots, supply, fresh, rfl, initWith_built h hc⟩)
    · exact .inr (.inr ⟨cause, slot, supply, fresh, rfl, initWith_failed h hc⟩)

/-- INIT constructs or reports slots; it adds and removes none. -/
@[simp] theorem nSlots_initWith (accepts : Block → Bool) (s : State) :
    (initWith accepts s).nSlots = s.nSlots := by
  obtain h | ⟨slots, supply, fresh, hc, h⟩ | ⟨cause, slot, supply, fresh, -, h⟩ := initWith_cases accepts s
  · rw [h, State.nSlots_raiseFatal]
  · rw [h]; exact (construct_built hc).1
  · rw [h, State.nSlots_raiseFatal]; rfl

@[simp] theorem initWith_ports (accepts : Block → Bool) (s : State) : (initWith accepts s).ports = s.ports := by
  obtain h | ⟨slots, supply, fresh, -, h⟩ | ⟨cause, slot, supply, fresh, -, h⟩ := initWith_cases accepts s <;>
    rw [h] <;> rfl

@[simp] theorem mPorts_initWith (accepts : Block → Bool) (s : State) :
    (initWith accepts s).mPorts = s.mPorts :=
  congrArg List.length (initWith_ports accepts s)

end InitWith

/-! ### Every step keeps the parameters -/

section ParametersOfSteps

variable {s t : State}

/-- No operation changes N_SLOTS or M_PORTS (00_scope.md R3, R5). -/
theorem exec_keeps_parameters {i : Instr} (h : exec i s = .next t) :
    t.nSlots = s.nSlots ∧ t.mPorts = s.mPorts := by
  cases i with
  | init => obtain ⟨-, rfl⟩ := execInit_next h; simp
  | claim slot => obtain ⟨p, x, -, -, -, -, -, -, rfl⟩ := execClaim_next h; simp
  | advance slot => obtain ⟨p, x, y, -, -, -, -, -, -, -, rfl⟩ := execAdvance_next h; simp
  | encode => obtain ⟨p, x, r, -, -, -, -, -, rfl⟩ := execEncode_next h; simp
  | release slot => obtain ⟨p, x, -, -, -, -, -, -, rfl⟩ := execRelease_next h; simp
  | next start => obtain ⟨p, x, -, -, -, -, -, rfl⟩ := acceptNext_next h; simp
  | iswf payload => obtain ⟨p, x, -, -, -, rfl⟩ := execIswf_next h; simp
  | genv4 => obtain ⟨p, x, -, -, -, -, -, rfl⟩ := acceptNext_next h; simp

/-- No step of a NEXT in progress changes N_SLOTS or M_PORTS (00_scope.md R3, R5). -/
theorem proceed_keeps_parameters {p : Nat} (h : proceed p s = .next t) :
    t.nSlots = s.nSlots ∧ t.mPorts = s.mPorts := by
  obtain ⟨x, -, ⟨-, rfl⟩ | ⟨-, -, i, -, -, rfl⟩ | ⟨-, -, i, -, -, rfl⟩ | ⟨-, -, i, y, -, -, rfl⟩ |
    ⟨-, -, r, -, rfl⟩ | ⟨-, -, i, u, -, -, rfl⟩⟩ := proceed_next h <;> simp

end ParametersOfSteps

/-- Settles O12: an operation, a port's next step and a hardware reset each keep both lengths. -/
theorem parametersFixed : Obligations.ParametersFixed := by
  intro s t h
  rw [← nSlots_nextEvent s, ← mPorts_nextEvent s]
  obtain ⟨a, c, i, -, -, h⟩ | ⟨p, -, h⟩ | ⟨-, rfl⟩ := step_cases h
  · exact exec_keeps_parameters (s := { (nextEvent s).2 with issuer := a }) h
  · exact proceed_keeps_parameters (s := { (nextEvent s).2 with issuer := .port p }) h
  · exact ⟨State.nSlots_hardwareReset _, State.mPorts_hardwareReset _⟩

/-! ### INIT's loop up to its first failure -/

section FirstFailure

variable {accepts : Block → Bool} {e : EntropyRecord} {count i fresh : Nat} {supply : List (List Byte)}

/-- A key that CipherConstruct rejects ends the loop at its slot, its draw used up (44_external_ops.md R188). -/
theorem construct_cons_rejected (h : accepts (keyHalf e) = false) :
    construct accepts (count + 1) i (e.toList :: supply) fresh = (.failed .cipherConstruct i, supply, fresh) := by
  simp [construct, h]

/-- Past a slot that is constructed, a failure of the rest of the loop is the failure of the loop. -/
theorem construct_cons_failed {cause : FCause} {slot : Nat} {rest : List (List Byte) × Nat}
    (h : accepts (keyHalf e) = true)
    (hc : construct accepts count (i + 1) supply fresh = (.failed cause slot, rest)) :
    construct accepts (count + 1) i (e.toList :: supply) fresh = (.failed cause slot, rest) := by
  simp [construct, h, hc]

/-- The first `f` draws being good, the loop fails as its remainder from slot `i + f` does
(44_external_ops.md R185, R188). -/
theorem construct_failed_of_drop {f : Nat} {cause : FCause} {slot : Nat} {rest : List (List Byte) × Nat}
    (hgood : ∀ j, j < f → ∃ e : EntropyRecord, supply[j]? = some e.toList ∧ accepts (keyHalf e) = true)
    (hc : construct accepts count (i + f) (supply.drop f) fresh = (.failed cause slot, rest)) :
    construct accepts (count + f) i supply fresh = (.failed cause slot, rest) := by
  induction f generalizing i supply with
  | zero => exact hc
  | succ f ih =>
    obtain ⟨e, hhead, haccepts⟩ := hgood 0 (Nat.succ_pos f)
    cases supply with
    | nil => cases hhead
    | cons bytes supply =>
      obtain rfl : bytes = e.toList := Option.some.inj hhead
      refine construct_cons_failed haccepts (ih (fun j hj => hgood (j + 1) (Nat.succ_lt_succ hj)) ?_)
      rwa [Nat.add_right_comm]

/-- Draw `f` being the first whose key is rejected, the loop fails at that slot with `f + 1` draws used up. -/
theorem construct_first_rejected {f : Nat} (hf : f < count)
    (hgood : ∀ j, j < f → ∃ e : EntropyRecord, supply[j]? = some e.toList ∧ accepts (keyHalf e) = true)
    (hdraw : supply[f]? = some e.toList) (hrejected : accepts (keyHalf e) = false) :
    construct accepts count i supply fresh = (.failed .cipherConstruct (i + f), supply.drop (f + 1), fresh) := by
  obtain ⟨n, rfl⟩ : ∃ n, count = n + 1 + f := ⟨count - f - 1, by omega⟩
  apply construct_failed_of_drop hgood
  obtain ⟨hlt, hget⟩ := List.getElem?_eq_some_iff.1 hdraw
  rw [List.drop_eq_getElem_cons hlt, hget]
  exact construct_cons_rejected hrejected

/-- A legal pool has at most 256 slots (44_external_ops.md R186). -/
theorem poolSizeOk_le {n : Nat} (h : poolSizeOk n = true) : n ≤ 256 := by
  simp only [poolSizeOk, Bool.and_eq_true, decide_eq_true_eq] at h
  obtain ⟨⟨-, hle⟩, -⟩ := h
  exact hle

/-- A slot number of a legal pool fits FINFO's 9 bits. -/
theorem toNat_finfo_of_slot {n f : Nat} (h : poolSizeOk n = true) (hf : f < n) :
    (BitVec.ofNat 9 f).toNat = f := by
  have hn := poolSizeOk_le h
  rw [BitVec.toNat_ofNat, Nat.mod_eq_of_lt (by omega)]

end FirstFailure

/-- Settles O51: INIT's loop fails at the first rejected key, and raising Fatal records its slot. -/
theorem cipherRejectionIsFatal : Obligations.CipherRejectionIsFatal := by
  refine ⟨fun _ => rfl, fun accepts s f e hpool hf hgood hdraw hrejected => ?_⟩
  have hc : construct accepts s.nSlots 0 s.supply s.fresh = _ :=
    construct_first_rejected hf hgood hdraw hrejected
  rw [initWith_failed hpool hc, Nat.zero_add]
  exact ⟨rfl, rfl, toNat_finfo_of_slot hpool hf, rfl⟩

end Sys2Proof.Machine

/-! SUPPORT. What one step does to the port that takes it and to the slots, said once (`PortStep`, `PortMove`), and
every step of the machine as one of: a hardware reset, an INIT, a move of one port (O9, O10, O15, O16, O17, O19). -/

namespace Sys2Proof.Machine

/-! ### A move of one port -/

/-- The steps of a port in state `x`: `y` is its state after the step, and the slots after it are those of `u`. The
operations CLAIM, ADVANCE, ENCODE and RELEASE leave the port idle, the same steps inside a NEXT move PSTATE on
(43_arbiter.md R157). -/
inductive PortStep (s : State) (x : Port) : Port → State → Prop where
  /-- A CLAIM that fails, and an idle port that is scheduled, change nothing. -/
  | wait (hidle : x.pstate = .idle) : PortStep s x x s
  /-- ISWF, the one step of a port that other phases than READY have. -/
  | check (b : Bool) (hidle : x.pstate = .idle) : PortStep s x { x with wf := .written b } s
  /-- NEXT is accepted, or its scan finds the flag taken: the port looks at another slot. -/
  | seek (k : Nat) (hready : s.phase = .ready) (hfrom : x.pstate = .idle ∧ x.held = none ∨ x.pstate = .scan) :
      PortStep s x { x with idx := .written (k &&& s.mask), pstate := .scan } s
  /-- A claim attempt that succeeds. -/
  | claim (i : Nat) (q : PState) (hready : s.phase = .ready) (hflag : s.flag i = some .free)
      (hfrom : x.pstate = .idle ∧ x.held = none ∧ q = .idle ∨ x.pstate = .scan ∧ q = .adv) :
      PortStep s x { x with held := some i, pstate := q } (s.setFlag i .claimed)
  /-- The effect of ADVANCE. -/
  | advance (i : Nat) (b : Block) (q : PState) (hready : s.phase = .ready) (hheld : x.held = some i)
      (hblock : nextBlock i s = .ok b) (hfrom : x.pstate = .idle ∧ q = .idle ∨ x.pstate = .adv ∧ q = .enc) :
      PortStep s x { x with raw := .written b, pstate := q } (s.setChain i b)
  /-- The effect of ENCODE. -/
  | encode (r : Block) (q : PState) (hready : s.phase = .ready) (hraw : x.raw = .written r)
      (hfrom : x.pstate = .idle ∧ q = .idle ∨ x.pstate = .enc ∧ q = .rel) :
      PortStep s x { x with str := .written (encodeBlock r), pstate := q } s
  /-- The effect of RELEASE. -/
  | release (i : Nat) (hready : s.phase = .ready) (hheld : x.held = some i) :
      PortStep s x { x with held := none, pstate := .idle } (s.setFlag i .free)

/-- From `s` to `t` port `p` alone moves, from `x` to `y`, and the status stays. -/
structure PortMove (p : Nat) (s t : State) (x y : Port) : Prop where
  port : s.ports[p]? = some x
  step : ∃ u, PortStep s x y u ∧ t.slots = u.slots
  ports : t.ports = s.ports.set p y
  status : SameStatus s t

/-- Changing a port that exists is writing its new state. -/
theorem modify_eq_set_of_getElem? {α : Type} {l : List α} {i : Nat} {x : α} (h : l[i]? = some x) (f : α → α) :
    l.modify i f = l.set i (f x) := by
  simp [List.modify_eq_set_getElem?, h]

/-- `u` differs from `s` in the model's own fields at most. -/
structure SameEngine (s u : State) : Prop where
  status : SameStatus s u
  slots : u.slots = s.slots
  ports : u.ports = s.ports

/-- The state an event is handled in, its issuer recorded. -/
theorem sameEngine_acting (s : State) (a : Agent) : SameEngine s { (nextEvent s).2 with issuer := a } := by
  obtain ⟨inputs, fresh, hs⟩ := nextEvent_state s
  rw [hs]
  exact ⟨⟨rfl, rfl, rfl⟩, rfl, rfl⟩

/-- A move is about the phase, the slots and the ports of the state it starts from. -/
theorem PortMove.of_sameEngine {p : Nat} {s u t : State} {x y : Port} (h : SameEngine s u)
    (m : PortMove p u t x y) : PortMove p s t x y := by
  obtain ⟨⟨hphase, hfcause, hfinfo⟩, hslots, hports⟩ := h
  cases s; cases u
  cases hphase; cases hfcause; cases hfinfo; cases hslots; cases hports
  obtain ⟨hx, ⟨v, hstep, hv⟩, hports, hstatus⟩ := m
  refine ⟨hx, ?_, hports, hstatus⟩
  cases hstep with
  | wait hidle => exact ⟨_, .wait hidle, hv⟩
  | check b hidle => exact ⟨_, .check b hidle, hv⟩
  | seek k hready hfrom => exact ⟨_, .seek k hready hfrom, hv⟩
  | claim i q hready hflag hfrom => exact ⟨_, .claim i q hready hflag hfrom, hv⟩
  | advance i b q hready hheld hblock hfrom => exact ⟨_, .advance i b q hready hheld hblock hfrom, hv⟩
  | encode r q hready hraw hfrom => exact ⟨_, .encode r q hready hraw hfrom, hv⟩
  | release i hready hheld => exact ⟨_, .release i hready hheld, hv⟩

/-! ### Every operation but INIT, and every step of a NEXT, is a move of one port -/

section Moves

variable {s t : State} {p i : Nat} {x : Port}

/-- Two writes to a port that exists are the writing of its final state. -/
theorem modify_modify_eq_set {l : List Port} (h : l[p]? = some x) (f g : Port → Port) :
    (l.modify p f).modify p g = l.set p (g (f x)) := by
  have hp : p < l.length := (List.getElem?_eq_some_iff.1 h).1
  rw [modify_eq_set_of_getElem? h, modify_eq_set_of_getElem? (List.getElem?_set_self hp), List.set_set]

/-- A step that leaves slots, ports and status as they were is a move of any idle port. -/
theorem PortMove.stay (hx : s.ports[p]? = some x) (hq : x.pstate = .idle) (h : SameEngine s t) :
    PortMove p s t x x :=
  ⟨hx, ⟨s, .wait hq, h.slots⟩,
    h.ports.trans ((List.modify_id p s.ports).symm.trans (modify_eq_set_of_getElem? hx id)), h.status⟩

/-- A claim attempt answers true exactly on a free flag (20_memory.md R44). -/
theorem claimState_fst_eq_true : (claimState p i s).1 = true ↔ s.flag i = some .free := by
  by_cases hf : s.flag i = some .free
  · simp [claimState_free hf, hf]
  · simp [claimState_not_free hf, hf]

/-- CLAIM, whether its attempt succeeds or not (43_arbiter.md R151). -/
theorem execClaim_move {slot : Byte} (h : execClaim slot s = .next t) :
    ∃ p x y, s.issuer = .port p ∧ PortMove p s t x y := by
  obtain ⟨p, x, -, hi, hx, hr, hq, hh, rfl⟩ := execClaim_next h
  by_cases hf : s.flag slot.toNat = some .free
  · rw [claimState_free hf]
    exact ⟨p, x, _, hi, hx, ⟨_, .claim slot.toNat x.pstate hr hf (.inl ⟨hq, hh, hq⟩), rfl⟩,
      modify_eq_set_of_getElem? hx _, rfl, rfl, rfl⟩
  · rw [claimState_not_free hf]
    exact ⟨p, x, x, hi, .stay hx hq ⟨⟨rfl, rfl, rfl⟩, rfl, rfl⟩⟩

/-- NEXT's acceptance (43_arbiter.md R157). -/
theorem acceptNext_move {start : Byte} (h : acceptNext start s = .next t) :
    ∃ p x y, s.issuer = .port p ∧ PortMove p s t x y := by
  obtain ⟨p, x, hi, hx, hr, hq, hh, rfl⟩ := acceptNext_next h
  exact ⟨p, x, _, hi, hx, ⟨_, .seek start.toNat hr (.inl ⟨hq, hh⟩), rfl⟩, modify_modify_eq_set hx _ _, rfl, rfl, rfl⟩

/-- Every operation but INIT is a move of the port that issues it. -/
theorem exec_move {i : Instr} (hne : i ≠ .init) (h : exec i s = .next t) :
    ∃ p x y, s.issuer = .port p ∧ PortMove p s t x y := by
  cases i with
  | init => exact absurd rfl hne
  | claim slot => exact execClaim_move h
  | advance slot =>
    obtain ⟨p, x, b, -, hi, hx, hr, hq, hh, hb, rfl⟩ := execAdvance_next h
    exact ⟨p, x, _, hi, hx, ⟨_, .advance slot.toNat b x.pstate hr hh hb (.inl ⟨hq, hq⟩), rfl⟩,
      modify_eq_set_of_getElem? hx _, rfl, rfl, rfl⟩
  | encode =>
    obtain ⟨p, x, r, hi, hx, hr, hq, hw, rfl⟩ := execEncode_next h
    exact ⟨p, x, _, hi, hx, ⟨_, .encode r x.pstate hr hw (.inl ⟨hq, hq⟩), rfl⟩,
      modify_eq_set_of_getElem? hx _, rfl, rfl, rfl⟩
  | release slot =>
    obtain ⟨p, x, -, hi, hx, hr, hq, hh, rfl⟩ := execRelease_next h
    refine ⟨p, x, _, hi, hx, ⟨_, .release slot.toNat hr hh, rfl⟩, ?_, rfl, rfl, rfl⟩
    rw [← hq]
    exact modify_eq_set_of_getElem? hx _
  | next start => exact acceptNext_move h
  | iswf payload =>
    obtain ⟨p, x, hi, hx, hq, rfl⟩ := execIswf_next h
    exact ⟨p, x, _, hi, hx, ⟨_, .check (isWellFormed payload) hq, rfl⟩, modify_eq_set_of_getElem? hx _, rfl, rfl, rfl⟩
  | genv4 => exact acceptNext_move h

/-- Every step the schedule gives a port is a move of that port (43_arbiter.md R157). -/
theorem proceed_move (h : proceed p s = .next t) : ∃ x y, PortMove p s t x y := by
  obtain ⟨x, hx, ⟨hq, rfl⟩ | ⟨hr, hq, i, hidx, hc, rfl⟩ | ⟨hr, hq, i, hidx, hc, rfl⟩ | ⟨hr, hq, i, b, hh, hb, rfl⟩ |
    ⟨hr, hq, r, hw, rfl⟩ | ⟨hr, hq, i, u, hh, hw, rfl⟩⟩ := proceed_next h
  · exact ⟨x, x, .stay hx hq ⟨⟨rfl, rfl, rfl⟩, rfl, rfl⟩⟩
  · have hf : s.flag i = some .free := claimState_fst_eq_true.1 hc
    rw [claimState_free hf]
    exact ⟨x, _, hx, ⟨_, .claim i .adv hr hf (.inr ⟨hq, rfl⟩), rfl⟩, modify_modify_eq_set hx _ _, rfl, rfl, rfl⟩
  · have hf : s.flag i ≠ some .free := fun hf => by simp [claimState_fst_eq_true.2 hf] at hc
    rw [claimState_not_free hf]
    refine ⟨x, _, hx, ⟨_, .seek (i + 1) hr (.inr hq), rfl⟩, ?_, rfl, rfl, rfl⟩
    rw [← hq]
    exact modify_eq_set_of_getElem? hx _
  · exact ⟨x, _, hx, ⟨_, .advance i b .enc hr hh hb (.inr ⟨hq, rfl⟩), rfl⟩, modify_modify_eq_set hx _ _, rfl, rfl, rfl⟩
  · exact ⟨x, _, hx, ⟨_, .encode r .rel hr hw (.inr ⟨hq, rfl⟩), rfl⟩, modify_modify_eq_set hx _ _, rfl, rfl, rfl⟩
  · exact ⟨x, _, hx, ⟨_, .release i hr hh, rfl⟩, modify_modify_eq_set hx _ _, rfl, rfl, rfl⟩

end Moves

/-- The next event is a command that decodes to INIT. -/
def State.PresentsInit (s : State) : Prop := ∃ a c, s.event = .command a c ∧ decode s.nSlots c = .ok .init

/-- Every step is a hardware reset, or an INIT from RESET, or a move of one port, the step's actor. -/
theorem step_move {s t : State} (h : step s = .next t) :
    (s.event = .hardwareReset ∧ ∃ u, SameEngine s u ∧ t = hardwareReset u) ∨
    (s.PresentsInit ∧ s.phase = .reset ∧ ∃ u, SameEngine s u ∧ t = (initWith cipherConstruct u).respond .done) ∨
    (s.event ≠ .hardwareReset ∧ ¬ s.PresentsInit ∧ ∃ p x y, s.actor = some (.port p) ∧ PortMove p s t x y) := by
  obtain ⟨a, c, i, he, hd, h⟩ | ⟨p, he, h⟩ | ⟨he, rfl⟩ := step_cases h
  · have hacting := sameEngine_acting s a
    by_cases hi : i = .init
    · subst hi
      obtain ⟨hr, rfl⟩ := execInit_next h
      exact .inr (.inl ⟨⟨a, c, he, hd⟩, hacting.status.1.symm.trans hr, _, hacting, rfl⟩)
    · obtain ⟨p, x, y, ha, m⟩ := exec_move hi h
      obtain rfl : a = .port p := ha
      refine .inr (.inr ⟨by simp [he], ?_, p, x, y, by simp [State.actor, he], m.of_sameEngine hacting⟩)
      rintro ⟨a', c', he', hd'⟩
      obtain ⟨-, rfl⟩ : .port p = a' ∧ c = c' := by simpa using he.symm.trans he'
      exact hi (Except.ok.inj (hd.symm.trans hd'))
  · obtain ⟨x, y, m⟩ := proceed_move h
    exact .inr (.inr ⟨by simp [he], by simp [State.PresentsInit, he], p, x, y, by simp [State.actor, he],
      m.of_sameEngine (sameEngine_acting s _)⟩)
  · obtain ⟨inputs, fresh, hs⟩ := nextEvent_state s
    exact .inl ⟨he, _, by rw [hs]; exact ⟨⟨rfl, rfl, rfl⟩, rfl, rfl⟩, rfl⟩

end Sys2Proof.Machine

/-! SUPPORT. What a move leaves unchanged, and how flags and HELD change together. -/

namespace Sys2Proof.Machine

section Effects

variable {p : Nat} {s t u : State} {x y : Port}

/-- Equal slots read alike. -/
theorem key_eq_of_slots (h : t.slots = u.slots) (i : Nat) : t.key i = u.key i := by simp [State.key, h]

theorem chain_eq_of_slots (h : t.slots = u.slots) (i : Nat) : t.chain i = u.chain i := by simp [State.chain, h]

theorem flag_eq_of_slots (h : t.slots = u.slots) (i : Nat) : t.flag i = u.flag i := by simp [State.flag, h]

theorem nSlots_eq_of_slots (h : t.slots = u.slots) : t.nSlots = u.nSlots := congrArg List.length h

/-- A slot with a CHAIN that is written is one of the pool's. -/
theorem lt_nSlots_of_chain {i : Nat} {b : Block} (h : s.chain i = .written b) : i < s.nSlots := by
  by_contra hi
  simp [State.chain, List.getElem?_eq_none (Nat.le_of_not_lt hi)] at h

/-- The slot of a claim flag is one of the pool's. -/
theorem lt_nSlots_of_flag {i : Nat} {f : Flag} (h : s.flag i = some f) : i < s.nSlots := by
  by_contra hi
  simp [State.flag, List.getElem?_eq_none (Nat.le_of_not_lt hi)] at h

theorem PortStep.nSlots (h : PortStep s x y u) : u.nSlots = s.nSlots := by
  cases h <;> simp

/-- No move writes a KEY (10_state.md R12). -/
theorem PortStep.key (h : PortStep s x y u) (i : Nat) : u.key i = s.key i := by
  cases h <;> simp

/-- A move changes no CHAIN but that of the slot the port holds (10_state.md R14). -/
theorem PortStep.chain (h : PortStep s x y u) {i : Nat} (hi : x.held ≠ some i) : u.chain i = s.chain i := by
  cases h with
  | advance j b q hready hheld hblock hfrom =>
    obtain ⟨k, c, -, hc, -⟩ := nextBlock_ok hblock
    rw [State.chain_setChain _ _ _ _ (lt_nSlots_of_chain hc), if_neg]
    rintro rfl
    exact hi hheld
  | wait | check | seek | claim | encode | release => simp

/-- How the flags and HELD of the moving port change together (20_memory.md R48, 43_arbiter.md R151, R153). -/
inductive FlagMove (s t : State) (x y : Port) : Prop where
  | same (held : y.held = x.held) (flag : ∀ j, t.flag j = s.flag j)
  | taken (i : Nat) (before : x.held = none) (after : y.held = some i) (free : s.flag i = some .free)
      (flag : ∀ j, t.flag j = if i = j then some .claimed else s.flag j)
  | given (i : Nat) (before : x.held = some i) (after : y.held = none) (claimed : s.flag i = some .claimed)
      (flag : ∀ j, t.flag j = if i = j then some .free else s.flag j)

/-- A flag write to a slot of the pool, read back. -/
theorem flag_setFlag_of {i : Nat} {f : Flag} (h : s.flag i = some f) (g : Flag) (j : Nat) :
    (s.setFlag i g).flag j = if i = j then some g else s.flag j := by
  rw [State.flag_setFlag]
  split
  · next hij => rw [← hij, h]; rfl
  · rfl

/-- A port that holds nothing when it scans, and a flag of 1 where it holds a slot, leave three cases. -/
theorem PortStep.flagMove (h : PortStep s x y u) (hscan : x.pstate = .scan → x.held = none)
    (hheld : ∀ i, x.held = some i → s.flag i = some .claimed) : FlagMove s u x y := by
  cases h with
  | wait | check | seek | encode => exact .same rfl fun _ => rfl
  | advance => exact .same rfl fun _ => by simp
  | claim i q hready hflag hfrom =>
    have hnone : x.held = none := by
      obtain ⟨-, hnone, -⟩ | ⟨hq, -⟩ := hfrom
      · exact hnone
      · exact hscan hq
    exact .taken i hnone rfl hflag (flag_setFlag_of hflag .claimed)
  | release i hready hi => exact .given i hi rfl (hheld i hi) (flag_setFlag_of (hheld i hi) .free)

/-! ### The same of a move -/

theorem PortMove.nSlots (m : PortMove p s t x y) : t.nSlots = s.nSlots := by
  obtain ⟨u, hstep, hu⟩ := m.step
  rw [nSlots_eq_of_slots hu, hstep.nSlots]

theorem PortMove.key (m : PortMove p s t x y) (i : Nat) : t.key i = s.key i := by
  obtain ⟨u, hstep, hu⟩ := m.step
  rw [key_eq_of_slots hu, hstep.key]

theorem PortMove.chain (m : PortMove p s t x y) {i : Nat} (hi : x.held ≠ some i) : t.chain i = s.chain i := by
  obtain ⟨u, hstep, hu⟩ := m.step
  rw [chain_eq_of_slots hu, hstep.chain hi]

/-- The moving port after the move, and every other port as before. -/
theorem PortMove.getElem? (m : PortMove p s t x y) (q : Nat) :
    t.ports[q]? = if p = q then some y else s.ports[q]? := by
  rw [m.ports, List.getElem?_set, if_pos (List.getElem?_eq_some_iff.1 m.port).1]

theorem PortMove.held (m : PortMove p s t x y) (q : Nat) : t.held q = if p = q then y.held else s.held q := by
  simp only [State.held, m.getElem?]
  split <;> rfl

/-- HELD of the moving port before the move. -/
theorem PortMove.held_before (m : PortMove p s t x y) : s.held p = x.held := by
  simp [State.held, m.port]

/-- HELD of the moving port after the move. -/
theorem PortMove.held_after (m : PortMove p s t x y) : t.held p = y.held := by
  rw [m.held, if_pos rfl]

theorem PortMove.flagMove (h : Inv s) (m : PortMove p s t x y) : FlagMove s t x y := by
  obtain ⟨u, hstep, hu⟩ := m.step
  have hsound : PortSound s x := h.portsSound x (List.mem_of_getElem? m.port)
  have hu' : ∀ j, t.flag j = u.flag j := flag_eq_of_slots hu
  cases hstep.flagMove
    (fun hq => by
      simp only [PortSound, hq] at hsound
      exact hsound.1)
    (fun i hi => (h.flagIffHeld i).2 ⟨p, m.held_before.trans hi⟩) with
  | same held flag => exact .same held fun j => (hu' j).trans (flag j)
  | taken i before after free flag => exact .taken i before after free fun j => (hu' j).trans (flag j)
  | given i before after claimed flag => exact .given i before after claimed fun j => (hu' j).trans (flag j)

end Effects

/-- A step of a READY machine that is no hardware reset is a move of one port. -/
theorem step_move_of_ready {s t : State} (hr : s.phase = .ready) (hne : s.event ≠ .hardwareReset)
    (h : step s = .next t) : ∃ p x y, s.actor = some (.port p) ∧ PortMove p s t x y := by
  obtain ⟨he, -⟩ | ⟨-, hreset, -⟩ | ⟨-, -, hmove⟩ := step_move h
  · exact absurd he hne
  · exact absurd (hr.symm.trans hreset) (by decide)
  · exact hmove

/-- INIT ends in READY or in FATAL (44_external_ops.md R185). -/
theorem initWith_phase (accepts : Block → Bool) (s : State) :
    (initWith accepts s).phase = .ready ∨ (initWith accepts s).phase = .fatal := by
  obtain h | ⟨_, _, _, -, h⟩ | ⟨_, _, _, _, -, h⟩ := initWith_cases accepts s <;> simp [h]

/-- Settles O9: a move keeps the status, INIT ends in READY or FATAL, a hardware reset in RESET. -/
theorem phaseTransitions : Obligations.PhaseTransitions := by
  refine ⟨⟨rfl, rfl, rfl, by rintro (_ | _ | _) <;> decide⟩, fun s t h => ?_⟩
  obtain ⟨he, u, -, rfl⟩ | ⟨hinit, hr, u, -, rfl⟩ | ⟨hne, hinit, p, x, y, -, m⟩ := step_move h
  · exact .inl ⟨he, rfl⟩
  · exact .inr (.inr ⟨hr, initWith_phase cipherConstruct u, hinit⟩)
  · exact .inr (.inl ⟨hne, m.status.1, hinit⟩)

/-- Settles O10: no move writes a KEY. -/
theorem keysNeverRewritten : Obligations.KeysNeverRewritten := by
  intro s t i hr hne h
  obtain ⟨p, x, y, -, m⟩ := step_move_of_ready hr hne h
  exact m.key i

/-- Settles O16: a move changes no CHAIN but that of the slot its port holds. -/
theorem onlyTheHolderAdvances : Obligations.OnlyTheHolderAdvances := by
  intro s t i hr hne h hchange
  obtain ⟨p, x, y, hactor, m⟩ := step_move_of_ready hr hne h
  have hheld : x.held = some i := not_not.1 fun hi => hchange (m.chain hi)
  exact ⟨p, hactor, m.held_before.trans hheld⟩

/-- Settles O17: flags change as `FlagMove` says. -/
theorem flagsChangeWithTheirHolder : Obligations.FlagsChangeWithTheirHolder := by
  intro s t i hinv hr hne h hchange
  obtain ⟨p, x, y, hactor, m⟩ := step_move_of_ready hr hne h
  refine ⟨p, hactor, ?_⟩
  rw [m.held_before, m.held_after]
  cases m.flagMove hinv with
  | same held flag => exact absurd (flag i) hchange
  | taken j before after free flag =>
    obtain rfl : j = i := not_not.1 fun hj => hchange (by rw [flag, if_neg hj])
    exact .inl ⟨free, by rw [flag, if_pos rfl], before, after⟩
  | given j before after claimed flag =>
    obtain rfl : j = i := not_not.1 fun hj => hchange (by rw [flag, if_neg hj])
    exact .inr ⟨claimed, by rw [flag, if_pos rfl], before, after⟩

/-- Settles O19: a move writes its actor's registers only, and INIT those of no port. -/
theorem portsArePrivate : Obligations.PortsArePrivate := by
  intro s t a p h hactor hne
  obtain ⟨he, -⟩ | ⟨-, -, u, hu, rfl⟩ | ⟨-, -, q, x, y, hq, m⟩ := step_move h
  · simp [State.actor, he] at hactor
  · rw [State.respond_ports, initWith_ports, hu.ports]
  · obtain rfl : a = .port q := Option.some.inj (hactor.symm.trans hq)
    rw [m.getElem?, if_neg fun hqp => hne (congrArg Agent.port hqp)]

end Sys2Proof.Machine

/-! SUPPORT. The parts of the invariant under a move, under INIT and under a hardware reset (O14, O15). -/

namespace Sys2Proof.Machine

/-! ### Identifiers -/

/-- `HEX[n]` is a digit ISWF accepts (30_encoding.md R64, 44_external_ops.md R182). -/
theorem isHex_hexDigit (n : Nibble) : isHex (hexDigit n) = true := by
  revert n; decide

/-- An encoded block passes the shape check (42_encoder.md R137). -/
theorem isWellFormed_encodeBlock (r : Block) : isWellFormed (encodeBlock r).toList = true := by
  have hversion : isHex 52#8 = true := by decide
  have hchar : ∀ k ∈ List.range 36, charOk (encodeBlock r).toList k = true := by
    intro k hk
    have hk : k < 36 := List.mem_range.1 hk
    interval_cases k <;> simp [charOk, encodeBlock, isHyphenPos, hexHi, hexLo, isHex_hexDigit, hversion]
  simp [isWellFormed, List.all_eq_true.2 hchar]

/-! ### What PSTATE says of the other registers -/

section Ports

variable {s t u : State} {p : Nat} {x y : Port}

theorem portSound_idle (hq : x.pstate = .idle) : PortSound s x := by
  simp [PortSound, hq]

theorem portSound_scan (hq : x.pstate = .scan) :
    PortSound s x ↔ x.held = none ∧ ∃ i, x.idx = .written i ∧ i < s.nSlots := by
  simp [PortSound, hq]

theorem portSound_adv (hq : x.pstate = .adv) : PortSound s x ↔ ∃ i, x.held = some i ∧ i < s.nSlots := by
  simp [PortSound, hq]

theorem portSound_enc (hq : x.pstate = .enc) :
    PortSound s x ↔ ∃ i r, x.held = some i ∧ s.chain i = .written r ∧ x.raw = .written r := by
  simp [PortSound, hq]

theorem portSound_rel (hq : x.pstate = .rel) :
    PortSound s x ↔ ∃ i r, x.held = some i ∧ s.chain i = .written r ∧ x.raw = .written r ∧
      x.str = .written (encodeBlock r) := by
  simp [PortSound, hq]

/-- A port's registers keep fitting its PSTATE while the pool's size and the CHAIN of its own slot stay. -/
theorem PortSound.congr (h : PortSound s x) (hn : t.nSlots = s.nSlots)
    (hc : ∀ i, x.held = some i → t.chain i = s.chain i) : PortSound t x := by
  cases hq : x.pstate with
  | idle => exact portSound_idle hq
  | scan => rw [portSound_scan hq] at h ⊢; rwa [hn]
  | adv => rw [portSound_adv hq] at h ⊢; rwa [hn]
  | enc =>
    obtain ⟨i, r, hheld, hchain, hraw⟩ := (portSound_enc hq).1 h
    exact (portSound_enc hq).2 ⟨i, r, hheld, (hc i hheld).trans hchain, hraw⟩
  | rel =>
    obtain ⟨i, r, hheld, hchain, hraw, hstr⟩ := (portSound_rel hq).1 h
    exact (portSound_rel hq).2 ⟨i, r, hheld, (hc i hheld).trans hchain, hraw, hstr⟩

/-- A scan index is one of a pool that has a slot (43_arbiter.md R156, 10_state.md R23). -/
theorem and_mask_lt (h : 0 < s.nSlots) (k : Nat) : k &&& s.mask < s.nSlots := by
  have hle : k &&& s.mask ≤ s.mask := Nat.and_le_right
  have hmask : s.mask = s.nSlots - 1 := rfl
  omega

/-- A legal pool has a slot (44_external_ops.md R186). -/
theorem poolSizeOk_pos {n : Nat} (h : poolSizeOk n = true) : 0 < n := by
  cases n with
  | zero => simp [poolSizeOk] at h
  | succ n => exact Nat.succ_pos n

/-- The moving port's registers fit its PSTATE after the step (43_arbiter.md R157). -/
theorem PortStep.portSound (h : PortStep s x y u) (hsound : PortSound s x)
    (hpool : s.phase = .ready → 0 < s.nSlots) : PortSound u y := by
  cases h with
  | wait hidle => exact hsound
  | check b hidle => exact portSound_idle hidle
  | seek k hready hfrom =>
    have hnone : x.held = none := by
      obtain ⟨-, hnone⟩ | hq := hfrom
      · exact hnone
      · exact ((portSound_scan hq).1 hsound).1
    exact (portSound_scan rfl).2 ⟨hnone, _, rfl, and_mask_lt (hpool hready) k⟩
  | claim i q hready hflag hfrom =>
    obtain ⟨-, -, rfl⟩ | ⟨-, rfl⟩ := hfrom
    · exact portSound_idle rfl
    · exact (portSound_adv rfl).2 ⟨i, rfl, by simpa using lt_nSlots_of_flag hflag⟩
  | advance i b q hready hheld hblock hfrom =>
    obtain ⟨-, rfl⟩ | ⟨-, rfl⟩ := hfrom
    · exact portSound_idle rfl
    · obtain ⟨k, c, -, hc, -⟩ := nextBlock_ok hblock
      refine (portSound_enc rfl).2 ⟨i, b, hheld, ?_, rfl⟩
      rw [State.chain_setChain _ _ _ _ (lt_nSlots_of_chain hc), if_pos rfl]
  | encode r q hready hraw hfrom =>
    obtain ⟨-, rfl⟩ | ⟨hq, rfl⟩ := hfrom
    · exact portSound_idle rfl
    · obtain ⟨i, r', hheld, hchain, hraw'⟩ := (portSound_enc hq).1 hsound
      obtain rfl : r = r' := by simpa using hraw.symm.trans hraw'
      exact (portSound_rel rfl).2 ⟨i, r, hheld, hchain, hraw, rfl⟩
  | release i hready hheld => exact portSound_idle rfl

/-- IDX stays in the pool (10_state.md R23). -/
theorem PortStep.indexInRange (h : PortStep s x y u) (hx : ∀ i, x.idx = .written i → i < s.nSlots)
    (hpool : s.phase = .ready → 0 < s.nSlots) : ∀ i, y.idx = .written i → i < s.nSlots := by
  cases h with
  | seek k hready hfrom =>
    rintro i hi
    cases hi
    exact and_mask_lt (hpool hready) k
  | wait | check | claim | advance | encode | release => exact hx

/-- STR holds identifiers only (44_external_ops.md R181). -/
theorem PortStep.identWellFormed (h : PortStep s x y u)
    (hx : ∀ v, x.str = .written v → isWellFormed v.toList = true) :
    ∀ v, y.str = .written v → isWellFormed v.toList = true := by
  cases h with
  | encode r q hready hraw hfrom =>
    rintro v hv
    cases hv
    exact isWellFormed_encodeBlock r
  | wait | check | seek | claim | advance | release => exact hx

/-- Outside READY a move writes WF at most: slots, PSTATE and HELD stay (70_reset_and_hazards.md R233). -/
theorem PortStep.of_not_ready (h : PortStep s x y u) (hr : s.phase ≠ .ready) :
    u = s ∧ y.pstate = .idle ∧ y.held = x.held := by
  cases h with
  | wait hidle => exact ⟨rfl, hidle, rfl⟩
  | check b hidle => exact ⟨rfl, hidle, rfl⟩
  | seek _ hready => exact absurd hready hr
  | claim _ _ hready => exact absurd hready hr
  | advance _ _ _ hready => exact absurd hready hr
  | encode _ _ hready => exact absurd hready hr
  | release _ hready => exact absurd hready hr

/-- Changing one slot keeps the pool constructed if it keeps that slot so. -/
theorem built_modifySlot {f : Slot → Slot} (i : Nat) (hf : ∀ z : Slot, z.Built → (f z).Built)
    (h : ∀ z ∈ s.slots, z.Built) : ∀ z ∈ (s.modifySlot i f).slots, z.Built := by
  rw [forall_mem_iff_getElem?] at h ⊢
  intro j z hz
  rw [State.modifySlot_get] at hz
  split at hz
  · obtain ⟨w, hw, rfl⟩ := Option.map_eq_some_iff.1 hz
    exact hf w (h j w hw)
  · exact h j z hz

/-- A move leaves every generator constructed (44_external_ops.md R185). -/
theorem PortStep.built (h : PortStep s x y u) (hs : ∀ z ∈ s.slots, z.Built) : ∀ z ∈ u.slots, z.Built := by
  cases h with
  | wait | check | seek | encode => exact hs
  | claim i | release i => exact built_modifySlot i (fun _ hz => hz) hs
  | advance i b => exact built_modifySlot i (fun _ hz => ⟨hz.1, b, rfl⟩) hs

end Ports

/-! ### The invariant under a move -/

section Kept

variable {s t : State} {p : Nat} {x y : Port}

/-- Flag 1 iff held is kept by a move (10_state.md R15 (b)). -/
theorem PortMove.flagIffHeld (h : Inv s) (m : PortMove p s t x y) (j : Nat) :
    t.flag j = some .claimed ↔ ∃ q, t.held q = some j := by
  have hj := h.flagIffHeld j
  have hx := m.held_before
  simp only [m.held]
  cases m.flagMove h with
  | same held flag => grind
  | taken i before after free flag => grind
  | given i before after claimed flag =>
    have honly := h.exclusive p
    grind

/-- One holder per slot is kept by a move (10_state.md R14). -/
theorem PortMove.exclusive (h : Inv s) (m : PortMove p s t x y) (q q' j : Nat)
    (hq : t.held q = some j) (hq' : t.held q' = some j) : q = q' := by
  have hx := m.held_before
  have hexcl := h.exclusive q q' j
  rw [m.held] at hq hq'
  cases m.flagMove h with
  | same held flag => grind
  | taken i before after free flag =>
    have hi := h.flagIffHeld i
    grind
  | given i before after claimed flag => grind

/-- A property every port has after a move: the moving port's is shown, the others' is as before. -/
theorem PortMove.forall_ports (m : PortMove p s t x y) {P : Port → Prop} (hy : P y)
    (hother : ∀ q z, p ≠ q → s.ports[q]? = some z → P z) : ∀ z ∈ t.ports, P z := by
  rw [forall_mem_iff_getElem?]
  intro q z hz
  rw [m.getElem?] at hz
  split at hz
  · cases hz; exact hy
  · exact hother q z ‹_› hz

/-- A move keeps the invariant. -/
theorem PortMove.inv (h : Inv s) (m : PortMove p s t x y) : Inv t := by
  obtain ⟨hphase, hfcause, hfinfo⟩ := m.status
  obtain ⟨u, hstep, hu⟩ := m.step
  have hx : x ∈ s.ports := List.mem_of_getElem? m.port
  have hpool : s.phase = .ready → 0 < s.nSlots := fun hr => poolSizeOk_pos (h.poolLegal hr)
  have hmem : ∀ {q z}, s.ports[q]? = some z → z ∈ s.ports := List.mem_of_getElem?
  constructor
  case poolLegal => rw [hphase, m.nSlots]; exact h.poolLegal
  case built => rw [hphase, hu]; exact fun hr => hstep.built (h.built hr)
  case flagsFree =>
    rw [hphase, hu]
    intro hr
    rw [(hstep.of_not_ready hr).1]
    exact h.flagsFree hr
  case portsIdle =>
    rw [hphase]
    intro hr
    obtain ⟨-, hidle, hheld⟩ := hstep.of_not_ready hr
    exact m.forall_ports ⟨hidle, hheld.trans (h.portsIdle hr x hx).2⟩ fun _ z _ hz => h.portsIdle hr z (hmem hz)
  case flagIffHeld => exact m.flagIffHeld h
  case exclusive => exact m.exclusive h
  case indexInRange =>
    rw [m.nSlots]
    exact m.forall_ports (hstep.indexInRange (h.indexInRange x hx) hpool) fun _ z _ hz => h.indexInRange z (hmem hz)
  case portsSound =>
    refine m.forall_ports ?_ fun q z hpq hz => (h.portsSound z (hmem hz)).congr m.nSlots fun i hi => m.chain fun hxi =>
      hpq (h.exclusive p q i (m.held_before.trans hxi) (by simpa [State.held, hz] using hi))
    exact (hstep.portSound (h.portsSound x hx) hpool).congr (nSlots_eq_of_slots hu) fun i _ => chain_eq_of_slots hu i
  case identsWellFormed =>
    exact m.forall_ports (hstep.identWellFormed (h.identsWellFormed x hx)) fun _ z _ hz =>
      h.identsWellFormed z (hmem hz)
  case faultRecorded => rw [hphase, hfcause]; exact h.faultRecorded
  case infoZero => rw [hfcause, hfinfo]; exact h.infoZero

end Kept

/-! ### The invariant with every flag free and every port idle: after INIT and after a reset -/

section Quiet

variable {s : State}

/-- A machine with every flag free and every port idle and holding nothing meets the invariant if its pool, its
indices, its identifiers and its status do. -/
theorem inv_of_quiet (hpool : s.phase = .ready → poolSizeOk s.nSlots = true)
    (hbuilt : s.phase = .ready → ∀ x ∈ s.slots, x.Built) (hfree : ∀ x ∈ s.slots, x.flag = .free)
    (hidle : ∀ x ∈ s.ports, x.pstate = .idle ∧ x.held = none)
    (hidx : ∀ x ∈ s.ports, ∀ i, x.idx = .written i → i < s.nSlots)
    (hstr : ∀ x ∈ s.ports, ∀ u, x.str = .written u → isWellFormed u.toList = true)
    (hfatal : s.phase = .fatal ↔ s.fcause ≠ .none) (hinfo : s.fcause = .none → s.finfo = 0) : Inv s := by
  have hflag : ∀ i, s.flag i ≠ some .claimed := by
    intro i hi
    obtain ⟨x, hx, hc⟩ := Option.map_eq_some_iff.1 hi
    exact absurd ((hfree x (List.mem_of_getElem? hx)).symm.trans hc) (by decide)
  have hheld : ∀ p i, s.held p ≠ some i := by
    intro p i hi
    obtain ⟨x, hx, hh⟩ := Option.bind_eq_some_iff.1 hi
    simp [(hidle x (List.mem_of_getElem? hx)).2] at hh
  exact {
    poolLegal := hpool
    built := hbuilt
    flagsFree := fun _ => hfree
    portsIdle := fun _ => hidle
    flagIffHeld := fun i => by simp [hflag, hheld]
    exclusive := fun p _ i hp => absurd hp (hheld p i)
    indexInRange := hidx
    portsSound := fun x hx => portSound_idle (hidle x hx).1
    identsWellFormed := hstr
    faultRecorded := hfatal
    infoZero := hinfo }

/-- Raising Fatal keeps every FLAG (60_exceptions.md R206). -/
@[simp] theorem State.flag_raiseFatal (c : FCause) (n : Nat) (s : State) (i : Nat) :
    (raiseFatal c n s).flag i = s.flag i := by
  simp only [State.flag, raiseFatal, List.getElem?_mapIdx, Option.map_map]
  rfl

/-- Raising Fatal outside READY keeps the invariant (60_exceptions.md R204, R206). -/
theorem Inv.raiseFatal (h : Inv s) (hr : s.phase ≠ .ready) {c : FCause} (hc : c ≠ .none) (n : Nat) :
    Inv (raiseFatal c n s) := by
  apply inv_of_quiet
  case hpool => simp
  case hbuilt => simp
  case hfree =>
    intro x hx
    obtain ⟨i, hi, rfl⟩ := List.mem_mapIdx.1 hx
    exact h.flagsFree hr s.slots[i] (List.getElem_mem hi)
  case hidle => exact h.portsIdle hr
  case hidx => rw [State.nSlots_raiseFatal]; exact h.indexInRange
  case hstr => exact h.identsWellFormed
  case hfatal => exact iff_of_true rfl hc
  case hinfo => exact fun hnone => absurd hnone hc

/-- INIT from RESET keeps the invariant, however it ends (44_external_ops.md R185). -/
theorem Inv.initWith (h : Inv s) (hr : s.phase = .reset) (accepts : Block → Bool) : Inv (initWith accepts s) := by
  have hne : s.phase ≠ .ready := by simp [hr]
  cases hpool : poolSizeOk s.nSlots with
  | false => rw [initWith_badPool hpool]; exact h.raiseFatal hne (by decide) _
  | true =>
    rcases hc : construct accepts s.nSlots 0 s.supply s.fresh with ⟨slots | ⟨cause, slot⟩, supply, fresh⟩
    · obtain ⟨hlen, hbuilt⟩ := construct_built hc
      rw [initWith_built hpool hc]
      apply inv_of_quiet
      case hpool => exact fun _ => (congrArg poolSizeOk hlen).trans hpool
      case hbuilt =>
        intro _ x hx
        obtain ⟨e, rfl⟩ := hbuilt x hx
        exact ⟨⟨_, rfl⟩, _, rfl⟩
      case hfree =>
        intro x hx
        obtain ⟨e, rfl⟩ := hbuilt x hx
        rfl
      case hidle => exact h.portsIdle hne
      case hidx => exact fun x hx i hi => (h.indexInRange x hx i hi).trans_eq hlen.symm
      case hstr => exact h.identsWellFormed
      case hfatal => simpa [hr] using h.faultRecorded
      case hinfo => exact h.infoZero
    · obtain ⟨hcause, -⟩ := construct_failed hc
      rw [initWith_failed hpool hc]
      have hquiet : Inv { s with supply := supply, fresh := fresh } := h.congr rfl rfl rfl rfl rfl
      exact hquiet.raiseFatal hne (by rintro rfl; simp at hcause) slot

/-- A machine in RESET whose slots and ports are as a reset leaves them meets the invariant (10_state.md R26). -/
theorem inv_of_reset (hphase : s.phase = .reset) (hcause : s.fcause = .none) (hinfo : s.finfo = 0)
    (hslots : ∀ x ∈ s.slots, x = Slot.reset) (hports : ∀ x ∈ s.ports, x = Port.reset) : Inv s := by
  apply inv_of_quiet
  case hpool => simp [hphase]
  case hbuilt => simp [hphase]
  case hfree => intro x hx; rw [hslots x hx]; rfl
  case hidle => intro x hx; rw [hports x hx]; exact ⟨rfl, rfl⟩
  case hidx => intro x hx i hi; rw [hports x hx] at hi; cases hi
  case hstr => intro x hx u hu; rw [hports x hx] at hu; cases hu
  case hfatal => simp [hphase, hcause]
  case hinfo => exact fun _ => hinfo

theorem inv_hardwareReset (s : State) : Inv (hardwareReset s) :=
  inv_of_reset rfl rfl rfl (by simp) (by simp)

theorem inv_resetWith (n m : Nat) : Inv (State.resetWith n m) :=
  inv_of_reset rfl rfl rfl (fun _ hx => List.eq_of_mem_replicate hx) (fun _ hx => List.eq_of_mem_replicate hx)

end Quiet

/-- Settles O15: a hardware reset, an INIT from RESET and a move of one port each keep the invariant. -/
theorem invariantKept : Obligations.InvariantKept := by
  intro s t h hstep
  obtain ⟨-, u, -, rfl⟩ | ⟨-, hr, u, hu, rfl⟩ | ⟨-, -, p, x, y, -, m⟩ := step_move hstep
  · exact inv_hardwareReset u
  · obtain ⟨hphase, hfcause, hfinfo⟩ := hu.status
    have hinv : Inv u := h.congr hphase hfcause hfinfo hu.slots hu.ports
    exact (hinv.initWith (hphase.trans hr) cipherConstruct).congr rfl rfl rfl rfl rfl
  · exact m.inv h

/-- Settles O14: slots and ports are as a reset leaves them. -/
theorem invariantAtReset : Obligations.InvariantAtReset :=
  ⟨inv_resetWith, inv_resetWith 256 2⟩

end Sys2Proof.Machine

/-! SUPPORT. The codes, the callers' reads, the reset values (O7, O8, O54), the pool-size check (O49). -/

namespace Sys2Proof.Machine

/-- Settles O7: each code is its constructor's. -/
theorem statusCodes : Obligations.StatusCodes :=
  ⟨⟨rfl, rfl, rfl, rfl⟩, ⟨rfl, rfl⟩, rfl, rfl, rfl, rfl, rfl⟩

/-- What a caller takes is the port's latch, read (10_state.md R21, R27). -/
theorem takeStr_of {s : State} {p : Nat} {x : Port} (hx : s.ports[p]? = some x) : s.takeStr p = readLatch x.str := by
  simp [State.takeStr, hx]

theorem takeWf_of {s : State} {p : Nat} {x : Port} (hx : s.ports[p]? = some x) : s.takeWf p = readLatch x.wf := by
  simp [State.takeWf, hx]

/-- Settles O8: a caller's read is `readLatch`, which faults on an unwritten latch alone. -/
theorem unwrittenLatchesFault : Obligations.UnwrittenLatchesFault := by
  intro s p x hx
  rw [takeStr_of hx, takeWf_of hx]
  refine ⟨fun h => ?_, fun u h => ?_, fun h => ?_, fun b h => ?_⟩ <;> rw [h] <;> rfl

/-- Settles O54: every slot is `Slot.reset` and every port `Port.reset`. -/
theorem resetStateValues : Obligations.ResetStateValues := by
  refine ⟨fun n m => ⟨rfl, rfl, rfl, List.length_replicate, List.length_replicate, fun x hx => ?_, fun x hx => ?_⟩, rfl⟩
  · rw [List.eq_of_mem_replicate hx]
    exact ⟨rfl, rfl, rfl⟩
  · rw [List.eq_of_mem_replicate hx]
    exact ⟨rfl, rfl, rfl, rfl, rfl, rfl⟩

/-- A legal pool size is a power of two up to 256 (44_external_ops.md R186). -/
theorem exists_pow_of_poolSizeOk {n : Nat} (h : poolSizeOk n = true) : ∃ k ≤ 8, n = 2 ^ k := by
  have hle := poolSizeOk_le h
  have hpos := poolSizeOk_pos h
  have hand : n &&& (n - 1) = 0 := by simp_all [poolSizeOk]
  obtain ⟨k, rfl⟩ := (Nat.and_sub_one_eq_zero_iff_isPowerOfTwo hpos.ne').1 hand
  exact ⟨k, (Nat.pow_le_pow_iff_right (by decide)).1 (hle : 2 ^ k ≤ 2 ^ 8), rfl⟩

/-- The nine legal pool sizes (44_external_ops.md R186). -/
theorem poolSizeOk_iff_mem (n : Nat) : poolSizeOk n = true ↔ n ∈ [1, 2, 4, 8, 16, 32, 64, 128, 256] := by
  constructor
  · intro h
    obtain ⟨k, hk, rfl⟩ := exists_pow_of_poolSizeOk h
    interval_cases k <;> simp
  · intro h
    fin_cases h <;> rfl

/-- Who may issue INIT is let through (60_exceptions.md R210). -/
theorem withAnyIssuer_of {s : State} {k : Result} (h : MayInit s) : withAnyIssuer s k = k := by
  obtain hhost | ⟨p, x, hi, hx, hq⟩ := h
  · simp [withAnyIssuer, hhost]
  · rw [withAnyIssuer, hi]
    exact withIdlePort_of hi hx hq

/-- INIT is enabled in RESET (44_external_ops.md R185). -/
theorem execInit_of {s : State} (h : MayInit s) (hr : s.phase = .reset) :
    exec .init s = .next ((initWith cipherConstruct s).respond .done) := by
  show execInit s = _
  rw [execInit, withAnyIssuer_of h, if_pos hr]

/-- Settles O49: an illegal pool is the first Fatal INIT raises, before its loop. -/
theorem poolSizeCheck : Obligations.PoolSizeCheck := by
  refine ⟨poolSizeOk_iff_mem, fun s hmay hr hsize => ?_⟩
  have hbad : poolSizeOk s.nSlots = false := Bool.eq_false_iff.2 fun h => hsize ((poolSizeOk_iff_mem _).1 h)
  have hfinfo : (BitVec.ofNat 9 (min s.nSlots 511)).toNat = min s.nSlots 511 := by
    rw [BitVec.toNat_ofNat]
    exact Nat.mod_eq_of_lt (by omega)
  refine ⟨_, execInit_of hmay hr, ?_⟩
  rw [initWith_badPool hbad]
  exact ⟨rfl, rfl, hfinfo, rfl, rfl, State.flag_raiseFatal .configPoolSize (min s.nSlots 511) s⟩

end Sys2Proof.Machine

/-! SUPPORT. Erasing every KEY before an operation or after it comes to the same (O11). -/

namespace Sys2Proof.Machine

section ErasedState

variable (s : State)

@[simp] theorem eraseKeys_phase : (eraseKeys s).phase = s.phase := rfl
@[simp] theorem eraseKeys_ports : (eraseKeys s).ports = s.ports := rfl
@[simp] theorem eraseKeys_issuer : (eraseKeys s).issuer = s.issuer := rfl
@[simp] theorem eraseKeys_supply : (eraseKeys s).supply = s.supply := rfl
@[simp] theorem eraseKeys_fresh : (eraseKeys s).fresh = s.fresh := rfl

@[simp] theorem nSlots_eraseKeys : (eraseKeys s).nSlots = s.nSlots := by
  simp [State.nSlots, eraseKeys]

@[simp] theorem mask_eraseKeys : (eraseKeys s).mask = s.mask := by
  simp [State.mask]

@[simp] theorem flag_eraseKeys (i : Nat) : (eraseKeys s).flag i = s.flag i := by
  simp only [State.flag, eraseKeys, List.getElem?_map, Option.map_map]
  rfl

@[simp] theorem eraseKeys_eraseKeys : eraseKeys (eraseKeys s) = eraseKeys s := by
  simp [eraseKeys, Function.comp_def]

/-- An update that commutes with the erasure answers alike with and without the keys. -/
theorem eraseResult_next_of_comm {f : State → State} (h : ∀ u, eraseKeys (f u) = f (eraseKeys u)) :
    eraseResult (.next (f (eraseKeys s))) = eraseResult (.next (f s)) := by
  simp only [eraseResult, h, eraseKeys_eraseKeys]

/-- A flag write does not touch a KEY (10_state.md R11, R13). -/
theorem eraseKeys_setFlag (i : Nat) (f : Flag) : eraseKeys (s.setFlag i f) = (eraseKeys s).setFlag i f := by
  have hslots : (eraseKeys (s.setFlag i f)).slots = ((eraseKeys s).setFlag i f).slots := by
    apply List.ext_getElem?
    intro j
    simp only [eraseKeys, State.setFlag_slots, List.getElem?_map, List.getElem?_modify]
    cases s.slots[j]? with
    | none => rfl
    | some x => by_cases hij : i = j <;> simp [hij]
  exact congrArg (fun l => { s with slots := l }) hslots

theorem claimState_eraseKeys (p i : Nat) :
    claimState p i (eraseKeys s) = ((claimState p i s).1, eraseKeys (claimState p i s).2) := by
  by_cases hf : s.flag i = some .free
  · rw [claimState_free hf, claimState_free ((flag_eraseKeys s i).trans hf), ← eraseKeys_setFlag]
    rfl
  · rw [claimState_not_free hf, claimState_not_free (flag_eraseKeys s i ▸ hf)]

theorem releaseState_eraseKeys (p i : Nat) : releaseState p i (eraseKeys s) = eraseKeys (releaseState p i s) :=
  congrArg (State.setHeld p none) (eraseKeys_setFlag s i .free).symm

/-- Raising Fatal overwrites every KEY by a free value that depends on no KEY (60_exceptions.md R206). -/
theorem eraseKeys_raiseFatal (c : FCause) (n : Nat) :
    eraseKeys (raiseFatal c n (eraseKeys s)) = eraseKeys (raiseFatal c n s) := by
  have hslots : (eraseKeys (raiseFatal c n (eraseKeys s))).slots = (eraseKeys (raiseFatal c n s)).slots := by
    apply List.ext_getElem?
    intro j
    cases h : s.slots[j]? <;> simp [eraseKeys, raiseFatal, h]
  exact congrArg (fun l => { raiseFatal c n s with slots := l }) hslots

/-- INIT reads the pool's size and the draws, and no KEY (44_external_ops.md R185). -/
theorem eraseKeys_initWith (accepts : Block → Bool) :
    eraseKeys (initWith accepts (eraseKeys s)) = eraseKeys (initWith accepts s) := by
  have hn := nSlots_eraseKeys s
  cases hpool : poolSizeOk s.nSlots with
  | false =>
    rw [initWith_badPool hpool, initWith_badPool (hn.symm ▸ hpool), hn, eraseKeys_raiseFatal]
  | true =>
    rcases hc : construct accepts s.nSlots 0 s.supply s.fresh with ⟨slots | ⟨cause, slot⟩, supply, fresh⟩
    · rw [initWith_built hpool hc, initWith_built (hn.symm ▸ hpool) (hn.symm ▸ hc)]
      rfl
    · rw [initWith_failed hpool hc, initWith_failed (hn.symm ▸ hpool) (hn.symm ▸ hc)]
      exact eraseKeys_raiseFatal { s with supply := supply, fresh := fresh } cause slot

end ErasedState

/-! ### The preconditions read no KEY -/

section ErasedPreconditions

variable {s : State} {k k' : Nat → Port → Result}

/-- Two outcomes behind one test answer alike if they do where it holds. -/
theorem eraseResult_ite {c : Prop} [Decidable c] {r r' e : Result} (h : eraseResult r' = eraseResult r) :
    eraseResult (if c then r' else e) = eraseResult (if c then r else e) := by
  split
  · exact h
  · rfl

theorem withPort_eraseKeys (h : ∀ p x, eraseResult (k' p x) = eraseResult (k p x)) :
    eraseResult (withPort (eraseKeys s) k') = eraseResult (withPort s k) := by
  simp only [withPort, eraseKeys_issuer, eraseKeys_ports]
  cases s.issuer with
  | host => rfl
  | port p =>
    cases hx : s.ports[p]? with
    | none => simp [hx]
    | some x => simpa [hx] using h p x

theorem withIdlePort_eraseKeys (h : ∀ p x, eraseResult (k' p x) = eraseResult (k p x)) :
    eraseResult (withIdlePort (eraseKeys s) k') = eraseResult (withIdlePort s k) :=
  withPort_eraseKeys fun p x => eraseResult_ite (h p x)

theorem withReadyPort_eraseKeys (h : ∀ p x, eraseResult (k' p x) = eraseResult (k p x)) :
    eraseResult (withReadyPort (eraseKeys s) k') = eraseResult (withReadyPort s k) :=
  withPort_eraseKeys fun _ _ => eraseResult_ite (withIdlePort_eraseKeys h)

theorem withAnyIssuer_eraseKeys {k k' : Result} (h : eraseResult k' = eraseResult k) :
    eraseResult (withAnyIssuer (eraseKeys s) k') = eraseResult (withAnyIssuer s k) := by
  simp only [withAnyIssuer, eraseKeys_issuer]
  cases s.issuer with
  | host => exact h
  | port p => exact withIdlePort_eraseKeys fun _ _ => h

theorem withSlot_eraseKeys {slot : Byte} {k k' : Nat → Result} 
    (h : eraseResult (k' slot.toNat) = eraseResult (k slot.toNat)) :
    eraseResult (withSlot slot (eraseKeys s) k') = eraseResult (withSlot slot s k) := by
  rw [withSlot, withSlot, nSlots_eraseKeys]
  exact eraseResult_ite h

theorem withLatch_eraseKeys {α : Type} (r : Latch α) {k k' : α → Result}
    (h : ∀ v, eraseResult (k' v) = eraseResult (k v)) : eraseResult (withLatch r k') = eraseResult (withLatch r k) := by
  cases r with
  | unwritten => rfl
  | written v => exact h v

end ErasedPreconditions

/-! ### Every operation but ADVANCE, and every step of NEXT but adv -/

section ErasedSteps

variable (s : State)

theorem acceptNext_eraseKeys (start : Byte) :
    eraseResult (acceptNext start (eraseKeys s)) = eraseResult (acceptNext start s) :=
  withReadyPort_eraseKeys fun p x => by
    simp only [startIndex, mask_eraseKeys]
    exact eraseResult_ite
      (eraseResult_next_of_comm s (f := fun u => ((u.setIdx p _).setPState p .scan).silent) fun _ => rfl)

theorem execInit_eraseKeys : eraseResult (execInit (eraseKeys s)) = eraseResult (execInit s) :=
  withAnyIssuer_eraseKeys <| eraseResult_ite <|
    congrArg (fun u : State => (.next (u.respond .done) : Result)) (eraseKeys_initWith s cipherConstruct)

theorem execClaim_eraseKeys (slot : Byte) :
    eraseResult (execClaim slot (eraseKeys s)) = eraseResult (execClaim slot s) := by
  unfold execClaim
  refine withSlot_eraseKeys ?_
  refine withReadyPort_eraseKeys fun p x => eraseResult_ite ?_
  rw [claimState_eraseKeys]
  exact eraseResult_next_of_comm (claimState p slot.toNat s).2 (f := State.respond _) fun _ => rfl

theorem execRelease_eraseKeys (slot : Byte) :
    eraseResult (execRelease slot (eraseKeys s)) = eraseResult (execRelease slot s) := by
  unfold execRelease
  refine withSlot_eraseKeys ?_
  refine withReadyPort_eraseKeys fun p x => eraseResult_ite ?_
  rw [releaseState_eraseKeys]
  exact eraseResult_next_of_comm (releaseState p slot.toNat s) (f := State.respond _) fun _ => rfl

/-- An operation other than ADVANCE depends on no KEY (10_state.md R12). -/
theorem exec_eraseKeys {i : Instr} (hi : ∀ slot, i ≠ .advance slot) :
    eraseResult (exec i (eraseKeys s)) = eraseResult (exec i s) := by
  cases i with
  | init => exact execInit_eraseKeys s
  | claim slot => exact execClaim_eraseKeys s slot
  | advance slot => exact absurd rfl (hi slot)
  | encode =>
    exact withReadyPort_eraseKeys fun p x => withLatch_eraseKeys x.raw fun r =>
      eraseResult_next_of_comm s (f := fun u => (encodeState p r u).respond (.ident (encodeBlock r))) fun _ => rfl
  | release slot => exact execRelease_eraseKeys s slot
  | next start => exact acceptNext_eraseKeys s start
  | iswf payload =>
    exact withIdlePort_eraseKeys fun p _ => eraseResult_next_of_comm s
      (f := fun u => (u.setWf p (isWellFormed payload)).respond (.bit (isWellFormed payload))) fun _ => rfl
  | genv4 => exact acceptNext_eraseKeys s 0

variable (p : Nat) (x : Port)

theorem scanStep_eraseKeys : eraseResult (scanStep p x (eraseKeys s)) = eraseResult (scanStep p x s) :=
  withLatch_eraseKeys x.idx fun i => by
    rw [claimState_eraseKeys]
    rcases claimState p i s with ⟨_ | _, t⟩
    · simp only [nextIndex, mask_eraseKeys]
      exact eraseResult_next_of_comm t (f := fun u => (u.setIdx p _).silent) fun _ => rfl
    · exact eraseResult_next_of_comm t (f := fun u => (u.setPState p .adv).silent) fun _ => rfl

theorem encStep_eraseKeys : eraseResult (encStep p x (eraseKeys s)) = eraseResult (encStep p x s) :=
  withLatch_eraseKeys x.raw fun r =>
    eraseResult_next_of_comm s (f := fun u => ((encodeState p r u).setPState p .rel).silent) fun _ => rfl

theorem relStep_eraseKeys : eraseResult (relStep p x (eraseKeys s)) = eraseResult (relStep p x s) := by
  unfold relStep
  cases x.held with
  | none => rfl
  | some i =>
    refine withLatch_eraseKeys x.str fun u => ?_
    rw [releaseState_eraseKeys]
    exact eraseResult_next_of_comm (releaseState p i s)
      (f := fun v => (v.setPState p .idle).respond (.ident u)) fun _ => rfl

/-- A step of NEXT other than adv depends on no KEY (10_state.md R12). -/
theorem proceed_eraseKeys (hadv : ∀ x, s.ports[p]? = some x → x.pstate ≠ .adv) :
    eraseResult (proceed p (eraseKeys s)) = eraseResult (proceed p s) := by
  simp only [proceed, eraseKeys_ports, eraseKeys_phase]
  cases hx : s.ports[p]? with
  | none => rfl
  | some x =>
    cases hq : x.pstate with simp only [hq]
    | idle => exact eraseResult_next_of_comm s (f := State.silent) fun _ => rfl
    | scan => exact eraseResult_ite (scanStep_eraseKeys s p x)
    | adv => exact absurd hq (hadv x hx)
    | enc => exact eraseResult_ite (encStep_eraseKeys s p x)
    | rel => exact eraseResult_ite (relStep_eraseKeys s p x)

end ErasedSteps

/-- Settles O11: each machine answers as the one machine with its keys erased does. -/
theorem keysInvisible : Obligations.KeysInvisible := by
  intro s s' h
  have hports : s.ports = s'.ports := by simpa using congrArg State.ports h
  refine ⟨fun i hi => ?_, fun p hadv => ?_⟩
  · rw [← exec_eraseKeys s hi, h, exec_eraseKeys s' hi]
  · rw [← proceed_eraseKeys s p hadv, h, proceed_eraseKeys s' p (hports ▸ hadv)]

end Sys2Proof.Machine

/-! SUPPORT. The step of the next event (O5, O6), and what a write of one slot, one port or both leaves unchanged
(O13, O35, O36, O37). -/

namespace Sys2Proof.Machine

/-! ### The step of each event -/

section Events

variable {s : State}

/-- The head of the inputs is the event a step handles (20_memory.md R55). -/
theorem step_of_inputs_cons {e : Event} {rest : List Event} (h : s.inputs = e :: rest) :
    step s = handle e { s with inputs := rest } := by
  simp [step, nextEvent, h]

/-- Once the inputs are used up, the event is a free value. -/
theorem step_of_inputs_nil (h : s.inputs = []) :
    step s = handle (Config.environment s.fresh) { s with fresh := s.fresh + 1 } := by
  simp [step, nextEvent, h]

/-- A command that decodes is executed, its agent recorded (30_encoding.md R76). -/
theorem present_of_decode {a : Agent} {c : Command} {i : Instr} (h : decode s.nSlots c = .ok i) :
    present a c s = exec i { s with issuer := a } := by
  simp [present, h]

end Events

/-- Settles O5: the event is the head of the inputs, and a command that decodes is executed. -/
theorem stepRunsDecodedInstruction : Obligations.StepRunsDecodedInstruction := by
  intro s a c rest i hinputs hdecode
  rw [step_of_inputs_cons hinputs]
  exact present_of_decode (s := { s with inputs := rest }) hdecode

/-- Settles O6: the event is the head of the inputs or, where there is none, a free value. -/
theorem stepHandlesOtherEvents : Obligations.StepHandlesOtherEvents :=
  ⟨fun _ _ _ h => step_of_inputs_cons h, fun _ _ h => step_of_inputs_cons h, fun _ h => step_of_inputs_nil h⟩

/-! ### The frame of a write -/

section Frames

variable {s t : State} {i p : Nat} {x : Port}

/-- Changing one slot leaves every other slot. -/
theorem sameSlotsBut_of_modify {f : Slot → Slot} (h : t.slots = s.slots.modify i f) : SameSlotsBut i s t := by
  refine ⟨by simp [State.nSlots, h], fun j hj => ?_⟩
  rw [h, List.getElem?_modify_ne _ _ (Ne.symm hj)]

/-- Changing one port leaves every other port. -/
theorem samePortsBut_of_modify {f : Port → Port} (h : t.ports = s.ports.modify p f) : SamePortsBut p s t := by
  refine ⟨by simp [State.mPorts, h], fun q hq => ?_⟩
  rw [h, List.getElem?_modify_ne _ _ (Ne.symm hq)]

/-- A flag of the pool holds what was written to it (20_memory.md R44, R45). -/
theorem flag_setFlag_self (hi : i < s.nSlots) (f : Flag) : (s.setFlag i f).flag i = some f := by
  rw [State.flag_setFlag, if_pos rfl, State.flag, List.getElem?_eq_getElem hi]
  rfl

/-- FLAG[i] and HELD[p] written and a response given, as CLAIM and RELEASE do: what the write sets, and everything
it leaves (43_arbiter.md R151, R153). -/
theorem setFlag_setHeld_respond_frame (hissuer : s.issuer = .port p) (hx : s.ports[p]? = some x) (hi : i < s.nSlots)
    (f : Flag) (h : Option Nat) (r : Response) (ht : t = ((s.setFlag i f).setHeld p h).respond r) :
    t.flag i = some f ∧ t.key i = s.key i ∧ t.chain i = s.chain i ∧ t.ports[p]? = some { x with held := h } ∧
      t.out = some (.port p, r) ∧ SameStatus s t ∧ SameOutside s t ∧ SameSlotsBut i s t ∧ SamePortsBut p s t := by
  have hslots : t.slots = (s.setFlag i f).slots := by rw [ht]; rfl
  refine ⟨?flag, ?key, ?chain, ?port, ?out, ?status, ?outside,
    sameSlotsBut_of_modify hslots, samePortsBut_of_modify (by rw [ht]; rfl)⟩
  case flag => rw [flag_eq_of_slots hslots, flag_setFlag_self hi]
  case key => rw [key_eq_of_slots hslots, State.key_setFlag]
  case chain => rw [chain_eq_of_slots hslots, State.chain_setFlag]
  case port => simp [ht, hx]
  case out => simp [ht, hissuer]
  case status => subst ht; exact ⟨rfl, rfl, rfl⟩
  case outside => subst ht; exact ⟨rfl, rfl, rfl, rfl⟩

end Frames

/-- Settles O13: both primitives are a flag write where they write at all. -/
theorem atomicPrimitives : Obligations.AtomicPrimitives := by
  intro s i
  refine ⟨fun hfree => ?_, fun hclaimed => casFlag_not_free (by simp [hclaimed]), fun hi => ?_⟩
  · rw [casFlag_free hfree]
    exact ⟨rfl, flag_setFlag_self (lt_nSlots_of_flag hfree) .claimed, sameSlotsBut_of_modify rfl,
      s.key_setFlag i i .claimed, s.chain_setFlag i i .claimed, rfl, rfl, rfl, rfl⟩
  · exact ⟨flag_setFlag_self hi .free, sameSlotsBut_of_modify rfl, s.key_setFlag i i .free,
      s.chain_setFlag i i .free, rfl, rfl, rfl, rfl⟩

/-! ### CLAIM and RELEASE -/

section ClaimRelease

variable {s : State} {p : Nat} {x : Port} {slot : Byte}

/-- An operation of a port that `ReadyFor` describes goes through. -/
theorem withReadyPort_of_readyFor {k : Nat → Port → Result} (h : ReadyFor p x s) : withReadyPort s k = k p x := by
  obtain ⟨⟨hissuer, hx, hidle⟩, hready⟩ := h
  exact withReadyPort_of hissuer hx hready hidle

/-- CLAIM by a port that holds nothing is its claim attempt (43_arbiter.md R151). -/
theorem exec_claim_of (h : ReadyFor p x s) (hheld : x.held = none) (hslot : slot.toNat < s.nSlots) :
    exec (.claim slot) s =
      .next ((claimState p slot.toNat s).2.respond (.bit (claimState p slot.toNat s).1)) := by
  show execClaim slot s = _
  rw [execClaim, withSlot_of hslot, withReadyPort_of_readyFor h, if_pos hheld]

/-- RELEASE by the slot's holder completes (43_arbiter.md R153). -/
theorem exec_release_of (h : ReadyFor p x s) (hheld : x.held = some slot.toNat) (hslot : slot.toNat < s.nSlots) :
    exec (.release slot) s = .next ((releaseState p slot.toNat s).respond .done) := by
  show execRelease slot s = _
  rw [execRelease, withSlot_of hslot, withReadyPort_of_readyFor h, if_pos hheld]

end ClaimRelease

/-- Settles O35: the claim attempt succeeds, and is a write of FLAG[s] and HELD[p]. -/
theorem claimOfFreeSlotSucceeds : Obligations.ClaimOfFreeSlotSucceeds := by
  intro s p x slot h hheld hfree
  have hslot := lt_nSlots_of_flag hfree
  refine ⟨_, exec_claim_of h hheld hslot, ?_⟩
  obtain ⟨⟨hissuer, hx, -⟩, -⟩ := h
  exact setFlag_setHeld_respond_frame hissuer hx hslot .claimed (some slot.toNat) (.bit true)
    (by rw [claimState_free hfree])

/-- Settles O36: the claim attempt fails and leaves the state, to which the response is added. -/
theorem claimOfTakenSlotFails : Obligations.ClaimOfTakenSlotFails := by
  intro s p x slot h hheld hclaimed
  rw [exec_claim_of h hheld (lt_nSlots_of_flag hclaimed), claimState_not_free (by simp [hclaimed])]
  obtain ⟨⟨hissuer, -⟩, -⟩ := h
  rw [State.respond, hissuer]

/-- Settles O37: the release is a write of FLAG[s] and HELD[p]. -/
theorem releaseFreesTheSlot : Obligations.ReleaseFreesTheSlot := by
  intro s p x slot h hheld hslot
  refine ⟨_, exec_release_of h hheld hslot, ?_⟩
  obtain ⟨⟨hissuer, hx, -⟩, -⟩ := h
  exact setFlag_setHeld_respond_frame hissuer hx hslot .free none .done rfl

end Sys2Proof.Machine

/-! SUPPORT. How many flags can be 1 (O18). -/

namespace Sys2Proof.Machine

section Counting

/-- The numbers of the slots whose flag is 1. -/
def State.claimedSlots (s : State) : List Nat := s.slots.findIdxs fun x => x.flag == .claimed

/-- The slots the ports hold, in port order. -/
def State.heldSlots (s : State) : List Nat := s.ports.filterMap Port.held

variable {s : State}

theorem mem_claimedSlots {i : Nat} : i ∈ s.claimedSlots ↔ s.flag i = some .claimed := by
  simp only [State.claimedSlots, List.mem_findIdxs_iff_exists_getElem_pos, State.flag, Option.map_eq_some_iff,
    List.getElem?_eq_some_iff, beq_iff_eq]
  exact ⟨fun ⟨hi, hflag⟩ => ⟨_, ⟨hi, rfl⟩, hflag⟩, fun ⟨_, ⟨hi, hget⟩, hflag⟩ => ⟨hi, hget ▸ hflag⟩⟩

theorem mem_heldSlots {i : Nat} : i ∈ s.heldSlots ↔ ∃ p, s.held p = some i := by
  rw [State.heldSlots, List.mem_filterMap]
  simp only [State.held, Option.bind_eq_some_iff, List.mem_iff_getElem?]
  exact ⟨fun ⟨x, ⟨p, hx⟩, hheld⟩ => ⟨p, x, hx, hheld⟩, fun ⟨p, x, hx, hheld⟩ => ⟨x, ⟨p, hx⟩, hheld⟩⟩

theorem length_claimedSlots : s.claimedSlots.length = (s.slots.filter fun x => x.flag == .claimed).length := by
  rw [State.claimedSlots, List.length_findIdxs, List.countP_eq_length_filter]

/-- Each flag that is 1 has a port of its own that holds its slot (10_state.md R15 (b)). -/
theorem length_claimedSlots_le_heldSlots (h : Inv s) : s.claimedSlots.length ≤ s.heldSlots.length := by
  have hnodup : s.claimedSlots.Nodup := List.nodup_findIdxs
  have hsub : s.claimedSlots ⊆ s.heldSlots := fun i hi =>
    mem_heldSlots.2 ((h.flagIffHeld i).1 (mem_claimedSlots.1 hi))
  exact (hnodup.subperm hsub).length_le

/-- Where fewer flags are 1 than there are slots, one is 0. -/
theorem exists_free_of_claimedSlots_lt (h : s.claimedSlots.length < s.nSlots) : ∃ i, s.flag i = some .free := by
  rw [length_claimedSlots] at h
  obtain ⟨x, hx, hnot⟩ := List.length_filter_lt_length_iff_exists.1 h
  obtain ⟨i, hi⟩ := List.getElem?_of_mem hx
  refine ⟨i, ?_⟩
  cases hflag : x.flag with
  | free => simp [State.flag, hi, hflag]
  | claimed => simp [hflag] at hnot

end Counting

/-- Settles O18: the flags that are 1 are no more than the slots held, and each port holds at most one. -/
theorem claimedFlagsBounded : Obligations.ClaimedFlagsBounded := by
  intro s hinv
  have hle := length_claimedSlots_le_heldSlots hinv
  refine ⟨le_min (List.length_filter_le _ _) ?_, fun hports p x hx hnone => exists_free_of_claimedSlots_lt ?_⟩
  · rw [← length_claimedSlots]
    exact hle.trans (List.length_filterMap_le Port.held s.ports)
  · have hlt : s.heldSlots.length < s.mPorts :=
      List.length_filterMap_lt_length_iff_exists.2 ⟨x, List.mem_of_getElem? hx, hnone⟩
    omega

end Sys2Proof.Machine

/-! SUPPORT. The steps of a NEXT in progress, one equation per PSTATE, and a scan that finds no flag free (O20, O21). -/

namespace Sys2Proof.Machine

section NextSteps

variable {s : State} {p : Nat} {x : Port}

/-! ### The step of each PSTATE (43_arbiter.md R157) -/

theorem proceed_scan (hr : s.phase = .ready) (hx : s.ports[p]? = some x) (hq : x.pstate = .scan) :
    proceed p s = scanStep p x s := by
  simp [proceed, hx, hq, hr]

theorem proceed_adv (hr : s.phase = .ready) (hx : s.ports[p]? = some x) (hq : x.pstate = .adv) :
    proceed p s = advStep p x s := by
  simp [proceed, hx, hq, hr]

theorem proceed_enc (hr : s.phase = .ready) (hx : s.ports[p]? = some x) (hq : x.pstate = .enc) :
    proceed p s = encStep p x s := by
  simp [proceed, hx, hq, hr]

theorem proceed_rel (hr : s.phase = .ready) (hx : s.ports[p]? = some x) (hq : x.pstate = .rel) :
    proceed p s = relStep p x s := by
  simp [proceed, hx, hq, hr]

theorem scanStep_of_free {i : Nat} (hidx : x.idx = .written i) (hfree : s.flag i = some .free) :
    scanStep p x s = .next (((s.setFlag i .claimed).setHeld p (some i)).setPState p .adv).silent := by
  simp [scanStep, hidx, claimState_free hfree]

theorem scanStep_of_not_free {i : Nat} (hidx : x.idx = .written i) (hfree : s.flag i ≠ some .free) :
    scanStep p x s = .next (s.setIdx p (nextIndex i s)).silent := by
  simp [scanStep, hidx, claimState_not_free hfree]

theorem advStep_of {i : Nat} {y : Block} (hheld : x.held = some i) (hblock : nextBlock i s = .ok y) :
    advStep p x s = .next ((advanceState p i y s).setPState p .enc).silent := by
  simp [advStep, hheld, hblock]

theorem encStep_of {r : Block} (hraw : x.raw = .written r) :
    encStep p x s = .next ((encodeState p r s).setPState p .rel).silent := by
  simp [encStep, hraw]

theorem relStep_of {i : Nat} {u : Identifier} (hheld : x.held = some i) (hstr : x.str = .written u) :
    relStep p x s = .next (((releaseState p i s).setPState p .idle).respond (.ident u)) := by
  simp [relStep, hheld, hstr]

/-! ### A port inside NEXT is never stuck -/

/-- A port inside NEXT is one of a READY machine (70_reset_and_hazards.md R233). -/
theorem Inv.ready_of_not_idle (h : Inv s) (hx : s.ports[p]? = some x) (hq : x.pstate ≠ .idle) : s.phase = .ready := by
  by_contra hr
  exact hq (h.portsIdle hr x (List.mem_of_getElem? hx)).1

/-- A slot of a READY machine's pool has a next block (44_external_ops.md R185). -/
theorem Inv.exists_nextBlock (h : Inv s) (hr : s.phase = .ready) {i : Nat} (hi : i < s.nSlots) :
    ∃ y, nextBlock i s = .ok y := by
  obtain ⟨⟨k, hk⟩, c, hc⟩ := h.built hr s.slots[i] (List.getElem_mem hi)
  have hget : s.slots[i]? = some s.slots[i] := List.getElem?_eq_getElem hi
  exact ⟨_, nextBlock_of (k := k) (c := c) (by simp [State.key, hget, hk]) (by simp [State.chain, hget, hc])⟩

end NextSteps

/-- Settles O20: what `PortSound` says of each PSTATE is what its step needs. -/
theorem nextIsNeverStuck : Obligations.NextIsNeverStuck := by
  intro s p x h hx hnot
  have hr := h.ready_of_not_idle hx hnot
  have hsound : PortSound s x := h.portsSound x (List.mem_of_getElem? hx)
  cases hq : x.pstate with
  | idle => exact absurd hq hnot
  | scan =>
    obtain ⟨-, i, hidx, -⟩ := (portSound_scan hq).1 hsound
    rw [proceed_scan hr hx hq]
    by_cases hfree : s.flag i = some .free
    · exact ⟨_, scanStep_of_free hidx hfree⟩
    · exact ⟨_, scanStep_of_not_free hidx hfree⟩
  | adv =>
    obtain ⟨i, hheld, hi⟩ := (portSound_adv hq).1 hsound
    obtain ⟨y, hblock⟩ := h.exists_nextBlock hr hi
    exact ⟨_, (proceed_adv hr hx hq).trans (advStep_of hheld hblock)⟩
  | enc =>
    obtain ⟨i, r, -, -, hraw⟩ := (portSound_enc hq).1 hsound
    exact ⟨_, (proceed_enc hr hx hq).trans (encStep_of hraw)⟩
  | rel =>
    obtain ⟨i, r, hheld, -, -, hstr⟩ := (portSound_rel hq).1 hsound
    exact ⟨_, (proceed_rel hr hx hq).trans (relStep_of hheld hstr)⟩

/-! ### Spinning -/

/-- A step of a scanning port at a flag that is not free moves its IDX on and leaves the slots (43_arbiter.md R154,
R155). -/
theorem exists_step_of_scan_not_free {s : State} {p i : Nat} {x : Port} {rest : List Event}
    (hinputs : s.inputs = .proceed p :: rest) (hr : s.phase = .ready) (hx : s.ports[p]? = some x)
    (hq : x.pstate = .scan) (hidx : x.idx = .written i) (hflag : s.flag i ≠ some .free) :
    ∃ t, step s = .next t ∧ t.phase = .ready ∧ t.slots = s.slots ∧ t.inputs = rest ∧
      t.ports[p]? = some { x with idx := .written (nextIndex i s) } := by
  have hstep : step s = proceed p { s with inputs := rest, issuer := .port p } := step_of_inputs_cons hinputs
  have hscan := proceed_scan (s := { s with inputs := rest, issuer := .port p }) hr hx hq
  refine ⟨_, hstep.trans (hscan.trans (scanStep_of_not_free hidx hflag)), hr, rfl, rfl, ?_⟩
  rw [State.silent_ports, State.setIdx_ports, List.getElem?_modify_eq, hx]
  rfl

/-- A run is one step and the rest of the run. -/
theorem run_succ_of_step {s t : State} (n : Nat) (h : step s = .next t) :
    Sys2Proof.core.run (n + 1) s = Sys2Proof.core.run n t := by
  have hcore : Sys2Proof.core.step s = .next t := h
  simp only [Host.Core.run, hcore]

/-- Settles O21, by induction on the number of steps: a spin leaves the slots, and so again finds no flag free. -/
theorem scanSpinsWhileAllTaken : Obligations.ScanSpinsWhileAllTaken := by
  intro n
  induction n with
  | zero =>
    intro s p i x rest _ hx _ hidx _ hinputs
    exact ⟨s, rfl, rfl, hinputs, i, by rw [hx, ← hidx]⟩
  | succ n ih =>
    intro s p i x rest hr hx hq hidx htaken hinputs
    obtain ⟨u, hstep, hready, huslots, huinputs, huport⟩ :=
      exists_step_of_scan_not_free hinputs hr hx hq hidx (htaken i)
    have hutaken : ∀ j, u.flag j ≠ some .free := fun j => flag_eq_of_slots huslots j ▸ htaken j
    obtain ⟨t, hrun, hslots, hrest, hport⟩ := ih u p (nextIndex i s) _ rest hready huport hq rfl hutaken huinputs
    exact ⟨t, (run_succ_of_step n hstep).trans hrun, hslots.trans huslots, hrest, hport⟩

end Sys2Proof.Machine

/-! SUPPORT. The decoder: what it answers for each opcode, and when it answers nothing (O1, O2, O3, O4). -/

namespace Sys2Proof

section Decoder

variable {n : Nat} {c : Command} {i j : Instr} {opc : Nibble} {arg : Byte} {payload : List Byte}

/-! ### The rows of the opcode map (30_encoding.md R75, R76) -/

theorem decodeNoArg_ok_iff : decodeNoArg arg i = .ok j ↔ arg = 0 ∧ i = j := by
  unfold decodeNoArg
  split <;> simp_all

theorem decodeNoArg_error_iff : (∃ why, decodeNoArg arg i = .error why) ↔ arg ≠ 0 := by
  unfold decodeNoArg
  split <;> simp_all

theorem decodeSlot_ok_iff {mk : Byte → Instr} : decodeSlot n arg mk = .ok j ↔ arg.toNat < n ∧ mk arg = j := by
  unfold decodeSlot
  split <;> simp_all

theorem decodeSlot_error_iff {mk : Byte → Instr} :
    (∃ why, decodeSlot n arg mk = .error why) ↔ n ≤ arg.toNat := by
  unfold decodeSlot
  split <;> simp_all

/-- NEXT names an operation with every ARG (30_encoding.md R72, R79). -/
theorem decodeFields_next : decodeFields n 6 arg payload = .ok (Instr.next arg).decodedName :=
  (apply_ite Except.ok (arg = 0) Instr.genv4 (Instr.next arg)).symm

/-- The rows that name an operation, and the operation each names. -/
theorem decodeFields_ok_iff :
    decodeFields n opc arg payload = .ok i ↔
      (opc = 1 ∧ arg = 0 ∧ .init = i) ∨ (opc = 2 ∧ arg.toNat < n ∧ .claim arg = i) ∨
      (opc = 3 ∧ arg.toNat < n ∧ .advance arg = i) ∨ (opc = 4 ∧ arg = 0 ∧ .encode = i) ∨
      (opc = 5 ∧ arg.toNat < n ∧ .release arg = i) ∨ (opc = 6 ∧ (Instr.next arg).decodedName = i) ∨
      (opc = 7 ∧ .iswf payload = i) := by
  by_cases h6 : opc = 6
  · subst h6
    rw [decodeFields_next]
    simp
  · obtain ⟨⟨o, ho⟩⟩ := opc
    interval_cases o <;> simp_all [decodeFields, decodeNoArg_ok_iff, decodeSlot_ok_iff]

/-- The rows that name none (30_encoding.md R76). -/
theorem decodeFields_error_iff :
    (∃ why, decodeFields n opc arg payload = .error why) ↔
      opc = 0 ∨ 8 ≤ opc.toNat ∨ ((opc = 1 ∨ opc = 4) ∧ arg ≠ 0) ∨
        ((opc = 2 ∨ opc = 3 ∨ opc = 5) ∧ n ≤ arg.toNat) := by
  by_cases h6 : opc = 6
  · subst h6
    rw [decodeFields_next]
    simp
  · obtain ⟨⟨o, ho⟩⟩ := opc
    interval_cases o <;> simp_all [decodeFields, decodeNoArg_error_iff, decodeSlot_error_iff]

/-! ### The decoder behind its two checks -/

/-- A command passes the decoder's checks where ZERO is 0 and the payload is as long as announced. -/
theorem decode_ok_iff :
    decode n c = .ok i ↔ zeroOf c.word = 0 ∧ c.payload.length = payloadLength c.word ∧
      decodeFields n (opcOf c.word) (argOf c.word) c.payload = .ok i := by
  unfold decode
  split_ifs <;> simp_all

/-- With a payload of the announced length, a command names nothing for its ZERO or for its OPC and ARG. -/
theorem decode_error_iff (hlen : c.payload.length = payloadLength c.word) :
    (∃ why, decode n c = .error why) ↔
      zeroOf c.word ≠ 0 ∨ ∃ why, decodeFields n (opcOf c.word) (argOf c.word) c.payload = .error why := by
  unfold decode
  split_ifs <;> simp_all

/-! ### The operations and their commands -/

/-- What a pool admits, the largest pool admits. -/
theorem Instr.wf_maxSlots (h : i.wf n = true) : i.wf Config.maxSlots = true := by
  cases i with
  | claim slot | advance slot | release slot => exact decide_eq_true slot.isLt
  | iswf payload => exact h
  | init | encode | next | genv4 => rfl

/-- Every operation's command has the shape its word announces (30_encoding.md R71, R73). -/
theorem wordShape (i : Instr) : Laws.WordShape.Statement i := by
  cases i with
  | init => exact Laws.WordShape.init
  | claim slot => exact Laws.WordShape.claim slot
  | advance slot => exact Laws.WordShape.advance slot
  | encode => exact Laws.WordShape.encode
  | release slot => exact Laws.WordShape.release slot
  | next start => exact Laws.WordShape.next start
  | iswf payload => exact Laws.WordShape.iswf payload
  | genv4 => exact Laws.WordShape.genv4

/-- NEXT is admissible under either name (30_encoding.md R72, R79). -/
theorem wf_decodedName_next : (Instr.next arg).decodedName.wf n = true := by
  by_cases h : arg = 0 <;> simp only [Instr.decodedName, h, if_true, if_false] <;> rfl

/-- Both names of NEXT 0 stand for one command (30_encoding.md R79). -/
theorem encode_decodedName_next : encode (Instr.next arg).decodedName = ⟨commandWord 6 arg, []⟩ := by
  by_cases h : arg = 0 <;> simp only [Instr.decodedName, h, if_true, if_false] <;> rfl

/-- The operation of a row is admissible, and its command has the row's OPC, its ARG and its payload. -/
theorem wf_and_encode_of_decodeFields (hlen : payload.length = if opc = 0x7 then arg.toNat else 0)
    (h : decodeFields n opc arg payload = .ok i) :
    i.wf n = true ∧ encode i = ⟨commandWord opc arg, payload⟩ := by
  have hnil : opc ≠ 7 → payload = [] := fun h7 => List.length_eq_zero_iff.1 (hlen.trans (if_neg h7))
  obtain ⟨rfl, rfl, rfl⟩ | ⟨rfl, hslot, rfl⟩ | ⟨rfl, hslot, rfl⟩ | ⟨rfl, rfl, rfl⟩ | ⟨rfl, hslot, rfl⟩ | ⟨rfl, rfl⟩ |
    ⟨rfl, rfl⟩ := decodeFields_ok_iff.1 h
  · rw [hnil (by decide)]; exact ⟨rfl, rfl⟩
  · rw [hnil (by decide)]; exact ⟨decide_eq_true hslot, rfl⟩
  · rw [hnil (by decide)]; exact ⟨decide_eq_true hslot, rfl⟩
  · rw [hnil (by decide)]; exact ⟨rfl, rfl⟩
  · rw [hnil (by decide)]; exact ⟨decide_eq_true hslot, rfl⟩
  · rw [hnil (by decide)]; exact ⟨wf_decodedName_next, encode_decodedName_next⟩
  · have hlen : payload.length = arg.toNat := hlen
    exact ⟨decide_eq_true (by omega), by simp [encode, hlen]⟩

end Decoder

/-- A command that names no operation is refused as reserved (30_encoding.md R76). -/
theorem Machine.present_of_decode_error {s : Machine.State} {a : Agent} {c : Command} {why : DecodeError}
    (h : decode s.nSlots c = .error why) : Machine.present a c s = .refused (.reserved why) := by
  simp [Machine.present, h]

/-- Settles O1: the command of an operation passes the checks, and its OPC and ARG select the operation's own row. -/
theorem decodeInvertsEncode : Obligations.DecodeInvertsEncode := by
  intro n i hwf
  obtain ⟨hzero, hlen⟩ := wordShape i
  refine decode_ok_iff.2 ⟨hzero, hlen (Instr.wf_maxSlots hwf), decodeFields_ok_iff.2 ?_⟩
  cases i with
  | init | encode | next | iswf | genv4 => simp [encode, Instr.decodedName]
  | claim slot | advance slot | release slot =>
    have hslot : slot.toNat < n := of_decide_eq_true hwf
    simp [encode, Instr.decodedName, hslot]

/-- Settles O2: the row gives back OPC, ARG and the payload, and with ZERO = 0 they are the whole command. -/
theorem encodeInvertsDecode : Obligations.EncodeInvertsDecode := by
  intro n c i h
  obtain ⟨hzero, hlen, hrow⟩ := decode_ok_iff.1 h
  obtain ⟨hwf, hencode⟩ := wf_and_encode_of_decodeFields hlen hrow
  rw [commandWord_of_zeroOf c.word hzero] at hencode
  exact ⟨hwf, hencode⟩

/-- Settles O3: the reserved words are those that fail the check of ZERO or fall in a row that names nothing. -/
theorem reservedWordsNameNothing : Obligations.ReservedWordsNameNothing := by
  intro s a c rest hinputs hlen
  refine ⟨?_, fun ⟨why, hdecode⟩ => ⟨why, ?_⟩⟩
  · rw [decode_error_iff hlen, decodeFields_error_iff]
    tauto
  · rw [Machine.step_of_inputs_cons hinputs]
    exact Machine.present_of_decode_error (s := { s with inputs := rest }) hdecode

/-- Settles O4: the model decodes each word, by computation. -/
theorem tableWordsDecode : Obligations.TableWordsDecode :=
  ⟨rfl, rfl, rfl, rfl, rfl, rfl, rfl, rfl, rfl, rfl, rfl, rfl, rfl, rfl, rfl, rfl⟩

end Sys2Proof

/-! SUPPORT. The identifier's characters: which byte stands where, and which bits are shown (O29, O30, O31, O32). -/

namespace Sys2Proof.Machine

/-! ### HEX (30_encoding.md R64) -/

section Hex

variable {n : Nibble}

/-- The digits `0` to `9`. -/
theorem toNat_hexDigit_of_le (h : n.toNat ≤ 9) : (hexDigit n).toNat = 0x30 + n.toNat := by
  rw [hexDigit, if_pos h, BitVec.toNat_ofNat]
  omega

/-- The digits `a` to `f`. -/
theorem toNat_hexDigit_of_ge (h : 10 ≤ n.toNat) : (hexDigit n).toNat = 0x61 + (n.toNat - 10) := by
  rw [hexDigit, if_neg (by omega), BitVec.toNat_ofNat]
  omega

/-- The digit is the character of R64's string. -/
theorem hexAlphabet_getElem? (n : Nibble) :
    ("0123456789abcdef".toList[n.toNat]?).map (fun ch => ch.toNat) = some (hexDigit n).toNat := by
  revert n; decide

end Hex

/-- Settles O29: the two ranges of digits hold no uppercase letter. -/
theorem hexAlphabet : Obligations.HexAlphabet := by
  refine ⟨hexAlphabet_getElem?, fun n => toNat_hexDigit_of_le, fun n => toNat_hexDigit_of_ge, fun n => ?_, rfl, rfl⟩
  by_cases h : n.toNat ≤ 9
  · rw [toNat_hexDigit_of_le h]; omega
  · rw [toNat_hexDigit_of_ge (by omega)]; omega

/-- Settles O30: the table of characters, read byte by byte. -/
theorem encodeCharacters : Obligations.EncodeCharacters := by
  intro r i hi
  interval_cases i <;> exact ⟨rfl, rfl⟩

/-! ### The bits an identifier shows (42_encoder.md R131, R138) -/

/-- The variant byte is `0b10` and the low six bits (30_encoding.md R69). -/
theorem forceVariant_eq_append (b : Byte) : forceVariant b = 2#2 ++ b.extractLsb' 0 6 := by
  revert b; decide

/-- The variant byte's high nibble is `0b10` and bits 5 and 4 (30_encoding.md R69). -/
theorem hi4_forceVariant (b : Byte) : hi4 (forceVariant b) = 2#2 ++ b.extractLsb' 4 2 := by
  revert b; decide

/-- The digits of the nibbles that begin with `0b10` (30_encoding.md R69). -/
theorem hexDigit_variant_mem (v : BitVec 2) : hexDigit (2#2 ++ v) ∈ ([0x38, 0x39, 0x61, 0x62] : List Byte) := by
  revert v; decide

/-- An identifier shows byte 6's low nibble, byte 8's low six bits, and every other byte whole. -/
theorem encodeBlock_congr {r r' : Block} (hbytes : ∀ (i : Nat) (hi : i < 16), i ≠ 6 → i ≠ 8 → r[i] = r'[i])
    (hversion : lo4 r[6] = lo4 r'[6]) (hvariant : r[8].extractLsb' 0 6 = r'[8].extractLsb' 0 6) :
    encodeBlock r = encodeBlock r' := by
  have hforced : forceVariant r[8] = forceVariant r'[8] := by
    rw [forceVariant_eq_append, forceVariant_eq_append, hvariant]
  simp [encodeBlock, hexLo, hversion, hforced, hbytes]

/-- Settles O31: of byte 6 the identifier shows the low nibble alone. -/
theorem versionCharacter : Obligations.VersionCharacter := by
  intro r
  refine ⟨rfl, rfl, fun b hlow => encodeBlock_congr (fun i hi h6 _ => ?_) ?_ ?_⟩
  · exact Vector.getElem_set_ne _ _ (Ne.symm h6)
  · simpa using hlow
  · simp

/-- Settles O32: of byte 8 the identifier shows the low six bits alone. -/
theorem variantCharacters : Obligations.VariantCharacters := by
  intro r
  have hhigh : hi4 ((r[8] &&& 0x3F) ||| 0x80) = 2#2 ++ r[8].extractLsb' 4 2 := hi4_forceVariant r[8]
  have hchar : (encodeBlock r)[19] = hexDigit (hi4 ((r[8] &&& 0x3F) ||| 0x80)) := rfl
  refine ⟨hchar, rfl, hhigh, ?_, fun b hbits => encodeBlock_congr (fun i hi _ h8 => ?_) ?_ ?_⟩
  · rw [hchar, hhigh]
    exact hexDigit_variant_mem _
  · exact Vector.getElem_set_ne _ _ (Ne.symm h8)
  · simp
  · simpa using hbits

end Sys2Proof.Machine

/-! SUPPORT. The acceptance of NEXT and the arithmetic of its scan index (O38, O41). -/

namespace Sys2Proof.Machine

section Scan

variable {s : State} {p : Nat} {x : Port} {start : Byte}

/-- NEXT 0 starts at slot 0, whatever the pool (44_external_ops.md R180). -/
@[simp] theorem startIndex_zero : startIndex 0 s = 0 :=
  Nat.zero_and s.mask

/-- NEXT is accepted from a port that holds nothing (43_arbiter.md R157). -/
theorem acceptNext_of (h : ReadyFor p x s) (hheld : x.held = none) :
    acceptNext start s = .next ((s.setIdx p (startIndex start s)).setPState p .scan).silent := by
  rw [acceptNext, withReadyPort_of_readyFor h, if_pos hheld]

/-- IDX[p] and PSTATE[p] are all an acceptance writes (43_arbiter.md R157). -/
theorem acceptNext_frame (h : ReadyFor p x s) (hheld : x.held = none) :
    ∃ t, acceptNext start s = .next t ∧
      t.ports[p]? = some { x with idx := .written (startIndex start s), pstate := .scan } ∧
      t.out = none ∧ t.slots = s.slots ∧ SameStatus s t ∧ SameOutside s t ∧ SamePortsBut p s t := by
  refine ⟨_, acceptNext_of h hheld, ?_, rfl, rfl, ⟨rfl, rfl, rfl⟩, ⟨rfl, rfl, rfl, rfl⟩, ?_⟩
  · obtain ⟨⟨-, hx, -⟩, -⟩ := h
    simp [hx]
  · exact samePortsBut_of_modify (List.modify_modify_eq _ _ _ _)

/-- In a legal pool MASK takes the remainder modulo N_SLOTS (43_arbiter.md R155, R156). -/
theorem and_mask_eq_mod (h : poolSizeOk s.nSlots = true) (k : Nat) : k &&& s.mask = k % s.nSlots := by
  obtain ⟨m, -, hm⟩ := exists_pow_of_poolSizeOk h
  rw [State.mask, hm]
  exact Nat.and_two_pow_sub_one_eq_mod k m

end Scan

/-- Settles O38: both names are an acceptance, GENV4's with start index 0. -/
theorem nextIsAccepted : Obligations.NextIsAccepted := by
  intro s p x start h hheld
  refine ⟨acceptNext_frame h hheld, ?_⟩
  have hframe := acceptNext_frame (start := 0) h hheld
  rwa [startIndex_zero] at hframe

/-- Settles O41: both indices are remainders modulo N_SLOTS. -/
theorem scanIndexArithmetic : Obligations.ScanIndexArithmetic := by
  intro s start i hpool
  have hpos := poolSizeOk_pos hpool
  have hnext : nextIndex i s = (i + 1) % s.nSlots := and_mask_eq_mod hpool (i + 1)
  refine ⟨and_mask_eq_mod hpool start.toNat, and_mask_lt hpos start.toNat, hnext, and_mask_lt hpos (i + 1),
    fun hlast => ?_, fun hlt => ?_⟩
  · rw [hnext, hlast, Nat.mod_self]
  · rw [hnext, Nat.mod_eq_of_lt hlt]

end Sys2Proof.Machine

/-! SUPPORT. INIT's loop over good draws (O48). -/

namespace Sys2Proof.Machine

/-- A byte of a tabulated block. -/
theorem Block.getElem_tab (f : Fin 16 → Byte) (j : Nat) (hj : j < 16) : (Block.tab f)[j] = f ⟨j, hj⟩ := by
  interval_cases j <;> rfl

section GoodDraws

variable {accepts : Block → Bool} {e : EntropyRecord} {count i fresh : Nat} {supply : List (List Byte)}

/-- A good draw whose key is accepted is a constructed slot before the slots of the rest of the loop
(44_external_ops.md R185, R187). -/
theorem construct_cons_built {slots : List Slot} {rest : List (List Byte) × Nat} (h : accepts (keyHalf e) = true)
    (hc : construct accepts count (i + 1) supply fresh = (.built slots, rest)) :
    construct accepts (count + 1) i (e.toList :: supply) fresh = (.built (builtSlot e :: slots), rest) := by
  simp [construct, h, hc]

/-- `count` good draws with accepted keys construct every slot, each from its own draw, and are all that is drawn
(44_external_ops.md R185, R187). -/
theorem construct_of_good
    (hgood : ∀ j, j < count → ∃ e : EntropyRecord, supply[j]? = some e.toList ∧ accepts (keyHalf e) = true) :
    ∃ slots, construct accepts count i supply fresh = (.built slots, supply.drop count, fresh) ∧
      ∀ (j : Nat) (e : EntropyRecord), j < count → supply[j]? = some e.toList → slots[j]? = some (builtSlot e) := by
  induction count generalizing i supply with
  | zero => exact ⟨[], rfl, fun j e hj => absurd hj (Nat.not_lt_zero j)⟩
  | succ count ih =>
    obtain ⟨e, hhead, haccepts⟩ := hgood 0 (Nat.succ_pos count)
    cases supply with
    | nil => cases hhead
    | cons bytes supply =>
      obtain rfl : bytes = e.toList := Option.some.inj hhead
      obtain ⟨slots, hc, hslots⟩ := ih (i := i + 1) (supply := supply) fun j hj => hgood (j + 1) (Nat.succ_lt_succ hj)
      refine ⟨builtSlot e :: slots, construct_cons_built haccepts hc, fun j e' hj hdraw => ?_⟩
      cases j with
      | zero =>
        obtain rfl : e = e' := Vector.toList_inj.1 (Option.some.inj hdraw)
        rfl
      | succ j => exact hslots j e' (Nat.lt_of_succ_lt_succ hj) hdraw

end GoodDraws

/-- Settles O48: N_SLOTS good draws construct N_SLOTS slots, CipherConstruct accepting every key. -/
theorem initConstructsThePool : Obligations.InitConstructsThePool := by
  intro s hmay hr hpool hgood
  obtain ⟨slots, hc, hslots⟩ := construct_of_good (accepts := cipherConstruct) (i := 0) (fresh := s.fresh)
    fun j hj => (hgood j hj).imp fun e he => ⟨he, rfl⟩
  refine ⟨_, execInit_of hmay hr, ?_⟩
  rw [initWith_built hpool hc]
  refine ⟨rfl, rfl, rfl, (construct_built hc).1, rfl, rfl, rfl, rfl, rfl, rfl, fun i e hi hdraw => ?_⟩
  exact ⟨keyHalf e, chainHalf e, hslots i e hi hdraw, fun j hj => ⟨Block.getElem_tab _ j hj, Block.getElem_tab _ j hj⟩⟩

end Sys2Proof.Machine

/-! SUPPORT. The effect of ADVANCE on the slot, the port and everything else (O22), and the later steps of a NEXT
(O40). -/

namespace Sys2Proof.Machine

section AdvanceFrames

variable {s t : State} {i p : Nat} {x : Port} {b : Block} {slot : Byte}

/-- Where only CHAIN[i] is written among the slots: what the write sets, and what it leaves of every slot
(40_generator_advance.md R91). -/
theorem setChain_slots_frame (hi : i < s.nSlots) (h : t.slots = (s.setChain i b).slots) :
    t.chain i = .written b ∧ t.key i = s.key i ∧ t.flag i = s.flag i ∧ SameSlotsBut i s t := by
  refine ⟨?chain, ?key, ?flag, sameSlotsBut_of_modify h⟩
  case chain => rw [chain_eq_of_slots h, State.chain_setChain _ _ _ _ hi, if_pos rfl]
  case key => rw [key_eq_of_slots h, State.key_setChain]
  case flag => rw [flag_eq_of_slots h, State.flag_setChain]

/-- ADVANCE by the slot's holder completes (40_generator_advance.md R91). -/
theorem exec_advance_of (h : ReadyFor p x s) (hheld : x.held = some slot.toNat) (hslot : slot.toNat < s.nSlots)
    (hblock : nextBlock slot.toNat s = .ok b) :
    exec (.advance slot) s = .next ((advanceState p slot.toNat b s).respond (.block b)) := by
  show execAdvance slot s = _
  rw [execAdvance, withSlot_of hslot, withReadyPort_of_readyFor h, if_pos hheld, hblock]

end AdvanceFrames

/-- Settles O22: ADVANCE is a write of CHAIN[s] and of RAW[p], and the response. -/
theorem advanceEncryptsTheChain : Obligations.AdvanceEncryptsTheChain := by
  intro s p x slot k c h hheld hkey hchain
  have hslot := lt_nSlots_of_chain hchain
  refine ⟨_, exec_advance_of h hheld hslot (nextBlock_of hkey hchain), ?_⟩
  obtain ⟨⟨hissuer, hx, -⟩, -⟩ := h
  obtain ⟨hchain', hkey', hflag', hslots⟩ := setChain_slots_frame
    (t := (advanceState p slot.toNat (blockEncrypt k c) s).respond (.block (blockEncrypt k c))) hslot rfl
  refine ⟨hchain', hkey'.trans hkey, hflag', ?port, ?out, ⟨rfl, rfl, rfl⟩, ⟨rfl, rfl, rfl, rfl⟩, hslots,
    samePortsBut_of_modify rfl⟩
  case port => simp [advanceState, hx]
  case out => simp [advanceState, hissuer]

section LaterSteps

variable {s : State} {p : Nat} {x : Port} {rest : List Event}

/-- The adv step (43_arbiter.md R157), from the event on: the effect of ADVANCE, and PSTATE moves on. -/
theorem step_adv_frame (hinputs : s.inputs = .proceed p :: rest) (hr : s.phase = .ready)
    (hx : s.ports[p]? = some x) {i : Nat} {k c : Block} (hq : x.pstate = .adv) (hheld : x.held = some i)
    (hkey : s.key i = .written k) (hchain : s.chain i = .written c) :
    ∃ t, step s = .next t ∧ t.chain i = .written (blockEncrypt k c) ∧ t.key i = .written k ∧
      t.flag i = s.flag i ∧ t.ports[p]? = some { x with raw := .written (blockEncrypt k c), pstate := .enc } ∧
      t.out = none ∧ SameStatus s t ∧ SameSlotsBut i s t ∧ SamePortsBut p s t ∧ t.inputs = rest := by
  have hstep : step s = proceed p { s with inputs := rest, issuer := .port p } := step_of_inputs_cons hinputs
  have hproceed := proceed_adv (s := { s with inputs := rest, issuer := .port p }) hr hx hq
  refine ⟨_, hstep.trans (hproceed.trans (advStep_of hheld (nextBlock_of hkey hchain))), ?_⟩
  generalize blockEncrypt k c = b
  obtain ⟨hchain', hkey', hflag', hslots⟩ := setChain_slots_frame (s := s) (b := b)
    (t := ((advanceState p i b { s with inputs := rest, issuer := .port p }).setPState p .enc).silent)
    (lt_nSlots_of_chain hchain) rfl
  refine ⟨hchain', hkey'.trans hkey, hflag', ?_, rfl, ⟨rfl, rfl, rfl⟩, hslots, ?_, rfl⟩
  · simp [advanceState, hx]
  · exact samePortsBut_of_modify (List.modify_modify_eq _ _ _ _)

/-- The enc step (43_arbiter.md R157), from the event on: the effect of ENCODE, and PSTATE moves on. -/
theorem step_enc_frame (hinputs : s.inputs = .proceed p :: rest) (hr : s.phase = .ready)
    (hx : s.ports[p]? = some x) {r : Block} (hq : x.pstate = .enc) (hraw : x.raw = .written r) :
    ∃ t, step s = .next t ∧ t.ports[p]? = some { x with str := .written (encodeBlock r), pstate := .rel } ∧
      t.out = none ∧ t.slots = s.slots ∧ SameStatus s t ∧ SamePortsBut p s t ∧ t.inputs = rest := by
  have hstep : step s = proceed p { s with inputs := rest, issuer := .port p } := step_of_inputs_cons hinputs
  have hproceed := proceed_enc (s := { s with inputs := rest, issuer := .port p }) hr hx hq
  refine ⟨_, hstep.trans (hproceed.trans (encStep_of hraw)), ?_, rfl, rfl, ⟨rfl, rfl, rfl⟩, ?_, rfl⟩
  · simp [encodeState, hx]
  · exact samePortsBut_of_modify (List.modify_modify_eq _ _ _ _)

/-- The rel step (43_arbiter.md R157), from the event on: the effect of RELEASE, PSTATE idle, STR[p] returned. -/
theorem step_rel_frame (hinputs : s.inputs = .proceed p :: rest) (hr : s.phase = .ready)
    (hx : s.ports[p]? = some x) {i : Nat} {u : Identifier} (hq : x.pstate = .rel) (hheld : x.held = some i)
    (hi : i < s.nSlots) (hstr : x.str = .written u) :
    ∃ t, step s = .next t ∧ t.flag i = some .free ∧ t.key i = s.key i ∧ t.chain i = s.chain i ∧
      t.ports[p]? = some { x with held := none, pstate := .idle } ∧ t.out = some (.port p, .ident u) ∧
      SameStatus s t ∧ SameSlotsBut i s t ∧ SamePortsBut p s t ∧ t.inputs = rest := by
  have hstep : step s = proceed p { s with inputs := rest, issuer := .port p } := step_of_inputs_cons hinputs
  have hproceed := proceed_rel (s := { s with inputs := rest, issuer := .port p }) hr hx hq
  refine ⟨_, hstep.trans (hproceed.trans (relStep_of hheld hstr)), ?_⟩
  obtain ⟨hflag, hkey, hchain, hport, hout, hstatus, -, hslots, -⟩ :=
    setFlag_setHeld_respond_frame (s := { s with inputs := rest, issuer := .port p }) rfl hx hi .free none
      (.ident u) rfl
  refine ⟨hflag, hkey, hchain, ?_, hout, hstatus, hslots, ?_, rfl⟩
  · simp [releaseState, storeRel, hx]
  · exact samePortsBut_of_modify (List.modify_modify_eq _ _ _ _)

end LaterSteps

/-- Settles O40: one frame for each of the three steps. -/
theorem advEncRelSteps : Obligations.AdvEncRelSteps :=
  fun _ _ _ _ hinputs hr hx =>
    ⟨fun _ _ _ => step_adv_frame hinputs hr hx, fun _ => step_enc_frame hinputs hr hx,
      fun _ _ => step_rel_frame hinputs hr hx⟩

end Sys2Proof.Machine

/-! SUPPORT. The ADVANCE steps on a slot, and the stream of its CHAIN along a run (O23). -/

namespace Sys2Proof.Machine

section Chains

variable (s : State) (p i j : Nat)

@[simp] theorem chain_setPState (q : PState) : (s.setPState p q).chain j = s.chain j := rfl

@[simp] theorem chain_setIdx : (s.setIdx p i).chain j = s.chain j := rfl

@[simp] theorem chain_setHeld (h : Option Nat) : (s.setHeld p h).chain j = s.chain j := rfl

@[simp] theorem chain_setWf (b : Bool) : (s.setWf p b).chain j = s.chain j := rfl

@[simp] theorem chain_respond (r : Response) : (s.respond r).chain j = s.chain j := rfl

@[simp] theorem chain_silent : s.silent.chain j = s.chain j := rfl

@[simp] theorem chain_encodeState (r : Block) : (encodeState p r s).chain j = s.chain j := rfl

@[simp] theorem chain_releaseState : (releaseState p i s).chain j = s.chain j := by
  simp [releaseState, storeRel]

@[simp] theorem chain_claimState : (claimState p i s).2.chain j = s.chain j := by
  by_cases h : s.flag i = some .free
  · simp [claimState_free h]
  · simp [claimState_not_free h]

/-- An advance writes the CHAIN of its slot alone (40_generator_advance.md R91). -/
theorem chain_advanceState {s : State} {i : Nat} {y : Block} (h : nextBlock i s = .ok y) :
    (advanceState p i y s).chain j = if i = j then .written y else s.chain j := by
  obtain ⟨k, c, -, hc, -⟩ := nextBlock_ok h
  exact State.chain_setChain s i j y (lt_nSlots_of_chain hc)

end Chains

section AdvanceSteps

variable {s t : State} {i : Nat}

/-- An operation of a READY machine that is no ADVANCE of slot `i` leaves CHAIN[i]. -/
theorem exec_chain_of_ne {a : Instr} (hinit : a ≠ .init) (hne : ∀ slot, a = .advance slot → slot.toNat ≠ i)
    (h : exec a s = .next t) : t.chain i = s.chain i := by
  cases a with
  | init => exact absurd rfl hinit
  | claim slot => obtain ⟨p, x, -, -, -, -, -, -, rfl⟩ := execClaim_next h; simp
  | advance slot =>
    obtain ⟨p, x, y, -, -, -, -, -, -, hblock, rfl⟩ := execAdvance_next h
    rw [chain_respond, chain_advanceState _ _ hblock, if_neg (hne slot rfl)]
  | encode => obtain ⟨p, x, r, -, -, -, -, -, rfl⟩ := execEncode_next h; simp
  | release slot => obtain ⟨p, x, -, -, -, -, -, -, rfl⟩ := execRelease_next h; simp
  | next start => obtain ⟨p, x, -, -, -, -, -, rfl⟩ := acceptNext_next h; simp
  | iswf payload => obtain ⟨p, x, -, -, -, rfl⟩ := execIswf_next h; simp
  | genv4 => obtain ⟨p, x, -, -, -, -, -, rfl⟩ := acceptNext_next h; simp

/-- A step of a NEXT that is no adv step of slot `i`'s holder leaves CHAIN[i]. -/
theorem proceed_chain_of_ne {p : Nat} (hne : ∀ x, s.ports[p]? = some x → x.pstate = .adv → x.held ≠ some i)
    (h : proceed p s = .next t) : t.chain i = s.chain i := by
  obtain ⟨x, hx, ⟨-, rfl⟩ | ⟨-, -, j, -, -, rfl⟩ | ⟨-, -, j, -, -, rfl⟩ | ⟨-, hq, j, y, hheld, hblock, rfl⟩ |
    ⟨-, -, r, -, rfl⟩ | ⟨-, -, j, u, -, -, rfl⟩⟩ := proceed_next h
  · rfl
  · simp
  · simp
  · rw [chain_silent, chain_setPState, chain_advanceState _ _ hblock, if_neg]
    rintro rfl
    exact hne x hx hq hheld
  · simp
  · simp

/-- What `advances` says of the next event: a command that decodes to ADVANCE, or a port at its adv step. -/
theorem advances_iff : advances i s = true ↔
    (∃ a c slot, s.event = .command a c ∧ decode s.nSlots c = .ok (.advance slot) ∧ slot.toNat = i) ∨
    (∃ p x, s.event = .proceed p ∧ s.ports[p]? = some x ∧ x.pstate = .adv ∧ x.held = some i) := by
  unfold advances
  cases s.event with
  | command a c =>
    cases hd : decode s.nSlots c with
    | error why => simp [hd]
    | ok o => cases o <;> simp [hd]
  | proceed p => cases hx : s.ports[p]? <;> simp [hx]
  | hardwareReset => simp

/-- A step of a READY machine that does not advance slot `i` leaves CHAIN[i]. -/
theorem step_chain_of_not_advances (hr : s.phase = .ready) (hne : s.event ≠ .hardwareReset)
    (hadv : advances i s = false) (h : step s = .next t) : t.chain i = s.chain i := by
  have hnot : ¬ advances i s = true := by simp [hadv]
  rw [advances_iff, not_or] at hnot
  obtain ⟨hcommand, hproceed⟩ := hnot
  obtain ⟨a, c, o, he, hd, h⟩ | ⟨p, he, h⟩ | ⟨he, -⟩ := step_cases h
  · obtain ⟨hstatus, hslots, -⟩ := sameEngine_acting s a
    have hinit : o ≠ .init := by
      rintro rfl
      obtain ⟨hreset, -⟩ := execInit_next h
      exact absurd (hr.symm.trans (hstatus.1.symm.trans hreset)) (by decide)
    rw [exec_chain_of_ne hinit (fun slot ho hi => hcommand ⟨a, c, slot, he, ho ▸ hd, hi⟩) h]
    exact chain_eq_of_slots hslots i
  · obtain ⟨-, hslots, hports⟩ := sameEngine_acting s (.port p)
    rw [proceed_chain_of_ne (fun x hx hq hheld => hproceed ⟨p, x, he, hports ▸ hx, hq, hheld⟩) h]
    exact chain_eq_of_slots hslots i
  · exact absurd he hne

/-- CHAIN[i] and RAW[p] are both the block `b`, as after an ADVANCE step of port `p` on slot `i` (R91). -/
def AdvancedTo (p i : Nat) (b : Block) (t : State) : Prop :=
  t.chain i = .written b ∧ ∃ y, t.ports[p]? = some y ∧ y.raw = .written b

variable {b : Block}

theorem nextBlock_eq_of_slots {u : State} (h : t.slots = u.slots) : nextBlock i t = nextBlock i u := by
  rw [nextBlock, nextBlock, key_eq_of_slots h, chain_eq_of_slots h]

/-- ADVANCE takes the slot and the issuing port to the slot's next block (40_generator_advance.md R91). -/
theorem advancedTo_of_exec {slot : Byte} (hb : nextBlock slot.toNat s = .ok b) (h : exec (.advance slot) s = .next t) :
    ∃ p, s.issuer = .port p ∧ AdvancedTo p slot.toNat b t := by
  obtain ⟨p, x, b', -, hissuer, hx, -, -, -, hblock, rfl⟩ := execAdvance_next h
  obtain rfl : b = b' := Except.ok.inj (hb.symm.trans hblock)
  refine ⟨p, hissuer, ?chain, { x with raw := .written b }, ?port, rfl⟩
  case chain => rw [chain_respond, chain_advanceState _ _ hblock, if_pos rfl]
  case port => simp [advanceState, hx]

/-- The adv step takes the slot and its port to the slot's next block (43_arbiter.md R157). -/
theorem advancedTo_of_proceed {p : Nat} {x : Port} (hr : s.phase = .ready) (hx : s.ports[p]? = some x)
    (hq : x.pstate = .adv) (hheld : x.held = some i) (hb : nextBlock i s = .ok b) (h : proceed p s = .next t) :
    AdvancedTo p i b t := by
  rw [proceed_adv hr hx hq, advStep_of hheld hb] at h
  cases h
  refine ⟨?chain, { x with raw := .written b, pstate := .enc }, ?port, rfl⟩
  case chain => rw [chain_silent, chain_setPState, chain_advanceState _ _ hb, if_pos rfl]
  case port => simp [advanceState, hx]

/-- A step of a READY machine that advances slot `i` takes the slot and the acting port to the slot's next block. -/
theorem step_advancedTo (hr : s.phase = .ready) (hadv : advances i s = true) (hb : nextBlock i s = .ok b)
    (h : step s = .next t) : ∃ p, s.actor = some (.port p) ∧ AdvancedTo p i b t := by
  obtain ⟨a, c, slot, he, hd, rfl⟩ | ⟨p, x, he, hx, hq, hheld⟩ := advances_iff.1 hadv
  · obtain ⟨a', c', o, he', hd', h⟩ | ⟨p, he', -⟩ | ⟨he', -⟩ := step_cases h
    · obtain ⟨rfl, rfl⟩ : a = a' ∧ c = c' := by simpa using he.symm.trans he'
      obtain rfl : .advance slot = o := Except.ok.inj (hd.symm.trans hd')
      obtain ⟨p, hissuer, hto⟩ :=
        advancedTo_of_exec ((nextBlock_eq_of_slots (sameEngine_acting s a).slots).trans hb) h
      obtain rfl : a = .port p := hissuer
      exact ⟨p, by simp [State.actor, he], hto⟩
    · simp [he] at he'
    · simp [he] at he'
  · obtain ⟨a', c', o, he', -⟩ | ⟨p', he', h⟩ | ⟨he', -⟩ := step_cases h
    · simp [he] at he'
    · obtain rfl : p = p' := by simpa using he.symm.trans he'
      obtain ⟨hstatus, hslots, hports⟩ := sameEngine_acting s (.port p)
      exact ⟨p, by simp [State.actor, he], advancedTo_of_proceed (hstatus.1.trans hr)
        ((congrArg (·[p]?) hports).trans hx) hq hheld ((nextBlock_eq_of_slots hslots).trans hb) h⟩
    · simp [he] at he'

/-- CHAIN[i] after a step of a READY machine: encrypted once if the step advances slot `i`, else as before
(40_generator_advance.md R91, R92). -/
theorem step_chain {k x : Block} (hr : s.phase = .ready) (hne : s.event ≠ .hardwareReset)
    (hkey : s.key i = .written k) (hchain : s.chain i = .written x) (h : step s = .next t) :
    t.chain i = .written ((blockEncrypt k)^[(advances i s).toNat] x) := by
  cases hadv : advances i s with
  | false => exact (step_chain_of_not_advances hr hne hadv h).trans hchain
  | true =>
    obtain ⟨p, -, hto, -⟩ := step_advancedTo hr hadv (nextBlock_of hkey hchain) h
    exact hto

end AdvanceSteps

section Runs

variable {i n c : Nat} {s u : State}

/-- A run of `n + 1` steps is a step that is no hardware reset, and a run of `n` steps from its state. -/
theorem countAdvances_succ (h : countAdvances i (n + 1) s = some (c, u)) :
    ∃ t c', s.event ≠ .hardwareReset ∧ step s = .next t ∧ countAdvances i n t = some (c', u) ∧
      c = c' + (advances i s).toNat := by
  unfold countAdvances at h
  split at h
  · cases h
  · next t hstep hne =>
    obtain ⟨⟨c', u'⟩, hrest, heq⟩ := Option.map_eq_some_iff.1 h
    cases heq
    exact ⟨t, c', hne, hstep, hrest, rfl⟩
  · cases h
  · cases h

/-- The stream of a slot along a run, by induction on its steps (40_generator_advance.md R92). -/
theorem stream_of_countAdvances {k x : Block} (hr : s.phase = .ready) (hkey : s.key i = .written k)
    (hchain : s.chain i = .written x) (h : countAdvances i n s = some (c, u)) :
    u.phase = .ready ∧ u.key i = .written k ∧ u.chain i = .written ((blockEncrypt k)^[c] x) := by
  induction n generalizing s x c with
  | zero =>
    obtain ⟨rfl, rfl⟩ : 0 = c ∧ s = u := by simpa [countAdvances] using h
    exact ⟨hr, hkey, hchain⟩
  | succ n ih =>
    obtain ⟨t, c', hne, hstep, hrest, rfl⟩ := countAdvances_succ h
    obtain ⟨p, _, _, -, m⟩ := step_move_of_ready hr hne hstep
    rw [Function.iterate_add_apply]
    exact ih (m.status.1.trans hr) ((m.key i).trans hkey) (step_chain hr hne hkey hchain hstep) hrest

end Runs

/-- Settles O23: the stream along the run, and then one more ADVANCE step. -/
theorem slotStream : Obligations.SlotStream := by
  intro n i c s t k x hr hkey hchain hrun
  obtain ⟨hready, hkey', hchain'⟩ := stream_of_countAdvances hr hkey hchain hrun
  refine ⟨hchain', hkey', fun u hadv hstep => ?_⟩
  obtain ⟨p, hactor, -, y, hport, hraw⟩ := step_advancedTo hready hadv (nextBlock_of hkey' hchain') hstep
  refine ⟨p, y, hactor, hport, ?_⟩
  rw [Function.iterate_succ_apply', hraw]

end Sys2Proof.Machine

/-! SUPPORT. Each layer of the cipher is injective, so BlockEncrypt is (41_cipher_aes128.md R121), and the stream of a
slot is purely periodic (O25). -/

namespace Sys2Proof.Machine

/-! ### Blocks by their cells (41_cipher_aes128.md R113) -/

@[simp] theorem cell_ofCells (f : Fin 4 → Fin 4 → Byte) (r c : Fin 4) : cell (ofCells f) r c = f r c := by
  fin_cases r <;> fin_cases c <;> rfl

/-- A block is its sixteen cells. -/
theorem ext_cell {x y : Block} (h : ∀ r c, cell x r c = cell y r c) : x = y := by
  refine Vector.ext fun j hj => ?_
  have hcell := h ⟨j % 4, by omega⟩ ⟨j / 4, by omega⟩
  simpa only [cell, Nat.mod_add_div] using hcell

/-! ### The layers (R115, R116, R118, R119) -/

/-- The bytes of a list as the bits of one number: the kernel then checks the whole S-box table at once. -/
def byteMask (l : List Byte) : Nat := l.foldr (fun b m => 1 <<< b.toNat ||| m) 0

theorem testBit_byteMask (l : List Byte) (b : Byte) : (byteMask l).testBit b.toNat = true ↔ b ∈ l := by
  induction l with
  | nil => simp [byteMask]
  | cons a l ih =>
    have hmask : byteMask (a :: l) = 1 <<< a.toNat ||| byteMask l := rfl
    rw [hmask, Nat.testBit_or, Bool.or_eq_true, ih, Nat.one_shiftLeft, Nat.testBit_two_pow, decide_eq_true_iff,
      BitVec.toNat_inj, List.mem_cons, eq_comm]

/-- Every byte stands in the S-box table. -/
theorem mem_sboxTable (b : Byte) : b ∈ sboxTable := by
  have hmask : byteMask sboxTable = 2 ^ 256 - 1 := by decide +kernel
  rw [← testBit_byteMask, hmask, Nat.testBit_two_pow_sub_one, decide_eq_true_iff]
  exact b.isLt

theorem sbox_surjective : Function.Surjective sbox := by
  intro b
  obtain ⟨n, hn, rfl⟩ := List.mem_iff_getElem.1 (mem_sboxTable b)
  have hlen : sboxTable.length = 2 ^ 8 := by decide +kernel
  refine ⟨BitVec.ofNat 8 n, ?_⟩
  rw [sbox, BitVec.toNat_ofNat, Nat.mod_eq_of_lt (hlen ▸ hn), List.getD_eq_getElem _ _ hn]

theorem sbox_injective : Function.Injective sbox :=
  Finite.injective_iff_surjective.2 sbox_surjective

theorem subBytes_injective : Function.Injective subBytes := by
  intro x y h
  refine ext_cell fun r c => sbox_injective ?_
  simpa [subBytes] using congrArg (cell · r c) h

theorem shiftRows_injective : Function.Injective shiftRows := by
  intro x y h
  refine ext_cell fun r c => ?_
  simpa [shiftRows] using congrArg (cell · r (c - r)) h

theorem addRoundKey_injective (k : Block) : Function.Injective (addRoundKey · k) := by
  intro x y h
  refine Vector.ext fun j hj => ?_
  have hbyte := congrArg (fun z : Block => z[j]) h
  simpa [addRoundKey, Block.getElem_tab] using hbyte

/-- Multiplication by x is additive in GF(2^8) (41_cipher_aes128.md R120). -/
@[simp] theorem xtime_xor (a b : Byte) : xtime (a ^^^ b) = xtime a ^^^ xtime b := by
  unfold xtime
  rw [BitVec.getLsbD_xor, BitVec.shiftLeft_xor_distrib]
  cases a.getLsbD 7 <;> cases b.getLsbD 7 <;> simp <;> grind

/-- MixColumns twice: the matrix (2, 3, 1, 1) squared is (5, 0, 4, 0), and 5 is x^2 + 1, 4 is x^2. -/
theorem cell_mixColumns_mixColumns (x : Block) (r c : Fin 4) :
    cell (mixColumns (mixColumns x)) r c =
      xtime (xtime (cell x r c)) ^^^ cell x r c ^^^ xtime (xtime (cell x (r + 2) c)) := by
  rw [← BitVec.xor_eq_zero_iff]
  fin_cases r
  all_goals
    simp only [mixColumns, cell_ofCells, mixByte, xtime_xor, Fin.reduceFinMk, Fin.reduceAdd]
    ac_nf
    simp

/-- MixColumns four times is the identity: (5, 0, 4, 0) squared is (1, 0, 0, 0). -/
theorem mixColumns_twice_involutive : Function.Involutive (mixColumns ∘ mixColumns) := by
  intro x
  refine ext_cell fun r c => ?_
  have hr : r + 2 + 2 = r := by rw [add_assoc]; exact add_zero r
  simp only [Function.comp_apply, cell_mixColumns_mixColumns, hr, xtime_xor]
  ac_nf
  simp

theorem mixColumns_injective : Function.Injective mixColumns :=
  mixColumns_twice_involutive.injective.of_comp

/-! ### The cipher (R114) -/

theorem fullRounds_injective (k : Block) (j : Nat) : Function.Injective (fullRounds k · j) := by
  induction j with
  | zero => exact addRoundKey_injective _
  | succ j ih =>
    exact (addRoundKey_injective _).comp <| mixColumns_injective.comp <| shiftRows_injective.comp <|
      subBytes_injective.comp ih

/-- Under every key, no two blocks have the same encryption (41_cipher_aes128.md R121). -/
theorem blockEncrypt_injective (k : Block) : Function.Injective (blockEncrypt k) :=
  (addRoundKey_injective _).comp <| shiftRows_injective.comp <| subBytes_injective.comp <| fullRounds_injective k 9

/-! ### The period -/

/-- There are finitely many blocks. -/
theorem finite_block : Finite Block :=
  Finite.of_injective (fun (x : Block) (j : Fin 16) => x[j]) fun x y h =>
    Vector.ext fun j hj => congrFun h ⟨j, hj⟩

/-- Settles O25: an injective map of a finite set has every point on a cycle, and a cycle repeats no point. -/
theorem streamIsPurelyPeriodic : Obligations.StreamIsPurelyPeriodic := by
  intro k x
  have hfinite := finite_block
  have hperiodic := (blockEncrypt_injective k).mem_periodicPts x
  refine ⟨Function.minimalPeriod (blockEncrypt k) x, Function.minimalPeriod_pos_of_mem_periodicPts hperiodic,
    Function.iterate_minimalPeriod, fun i j hij hj heq => hij.ne ?_⟩
  exact Function.iterate_injOn_Iio_minimalPeriod (hij.trans hj) hj heq

end Sys2Proof.Machine

/-! SUPPORT. BlockEncrypt is a bijection (O24), the S-box table against the affine map (O26), and the vectors of
41_cipher_aes128.md R122 (O27). -/

namespace Sys2Proof.Machine

/-- Settles O24: an injective map of a finite set into itself is a bijection. -/
theorem cipherIsBijective : Obligations.CipherIsBijective := by
  intro k
  have hfinite := finite_block
  exact Finite.injective_iff_bijective.1 (blockEncrypt_injective k)

/-! ### The S-box table (R115, R120) -/

/-- The affine map of the S-box run backwards: from the S-box value of a byte to the byte's inverse in GF(2^8). -/
def sboxAffineInverse (y : Byte) : Byte :=
  y.rotateLeft 1 ^^^ y.rotateLeft 3 ^^^ y.rotateLeft 6 ^^^ 0x05

theorem sboxAffine_sboxAffineInverse : ∀ y : Byte, sboxAffine (sboxAffineInverse y) = y := by decide +kernel

/-- Run backwards from its table entry, a byte other than 0 comes to its inverse: one product for each entry. The
bytes are taken from `Fin 256`, over which the kernel enumerates far faster than over `Byte`. -/
theorem gfMul_sboxAffineInverse_sbox {b : Byte} (hb : b ≠ 0) : gfMul b (sboxAffineInverse (sbox b)) = 1 := by
  have hentries : ∀ n : Fin 256, BitVec.ofFin n ≠ (0 : Byte) →
      gfMul (BitVec.ofFin n) (sboxAffineInverse (sbox (BitVec.ofFin n))) = 1 := by decide +kernel
  exact hentries b.toFin hb

/-- Settles O26: the inverse of a byte is its table entry with the affine map undone; the rest are single values. -/
theorem sboxIsAlgebraic : Obligations.SboxIsAlgebraic := by
  refine ⟨by decide, fun b hb => ⟨sboxAffineInverse (sbox b), gfMul_sboxAffineInverse_sbox hb, ?_⟩, by decide⟩
  exact (sboxAffine_sboxAffineInverse (sbox b)).symm

/-! ### The vectors (R122) -/

/-- Settles O27: each of the five vectors is one closed evaluation of the ten rounds. -/
theorem cipherVectors : Obligations.CipherVectors := by
  refine ⟨?_, ?_, ?_, ?_, ?_⟩
  all_goals decide +kernel

end Sys2Proof.Machine

/-! SUPPORT. ENCODE and the format of what it returns (O28, O33, O34, O44). -/

namespace Sys2Proof.Machine

/-! ### ENCODE (42_encoder.md R131) -/

/-- ENCODE with RAW[p] written completes, with or without a claim (42_encoder.md R131, R136). -/
theorem exec_encode_of {s : State} {p : Nat} {x : Port} {r : Block} (h : ReadyFor p x s) (hraw : x.raw = .written r) :
    exec .encode s = .next ((encodeState p r s).respond (.ident (encodeBlock r))) := by
  show execEncode s = _
  rw [execEncode, withReadyPort_of_readyFor h, hraw, withLatch_written]

/-- Settles O28: ENCODE is a write of STR[p], and the response. -/
theorem encodeFormatsTheLatch : Obligations.EncodeFormatsTheLatch := by
  intro s p x r h hraw
  refine ⟨_, exec_encode_of h hraw, ?_⟩
  obtain ⟨⟨hissuer, hx, -⟩, -⟩ := h
  refine ⟨?port, ?out, rfl, ⟨rfl, rfl, rfl⟩, ⟨rfl, rfl, rfl, rfl⟩, samePortsBut_of_modify rfl⟩
  case port => simp [encodeState, hx]
  case out => simp [encodeState, hissuer]

/-! ### The format theorem (42_encoder.md R137) -/

/-- No digit is the hyphen (30_encoding.md R64). -/
theorem hexDigit_ne_hyphen (n : Nibble) : hexDigit n ≠ hyphen := by
  revert n; decide

/-- Characters 8, 13, 18 and 23 are hyphens (30_encoding.md R67). -/
theorem encodeBlock_getElem_hyphen (r : Block) {k : Nat} (hk : k < 36) (h : k = 8 ∨ k = 13 ∨ k = 18 ∨ k = 23) :
    (encodeBlock r)[k] = hyphen := by
  obtain rfl | rfl | rfl | rfl := h <;> rfl

/-- Every other character is a digit: the version's at 14, that of a nibble of the block elsewhere
(42_encoder.md R131). -/
theorem encodeBlock_getElem_hexDigit (r : Block) {k : Nat} (hk : k < 36)
    (h : ¬ (k = 8 ∨ k = 13 ∨ k = 18 ∨ k = 23)) : ∃ n : Nibble, (encodeBlock r)[k] = hexDigit n := by
  by_cases hversion : k = 14
  · subst hversion
    exact ⟨4, rfl⟩
  · interval_cases k <;> simp at h hversion
    all_goals exact ⟨_, rfl⟩

/-- Settles O33: hyphens and digits exclude each other. -/
theorem formatTheorem : Obligations.FormatTheorem := by
  intro r
  obtain ⟨hversion, -⟩ := versionCharacter r
  obtain ⟨-, -, -, hvariant, -⟩ := variantCharacters r
  refine ⟨Vector.length_toList, fun k hk => ⟨fun hhyphen => ?_, encodeBlock_getElem_hyphen r hk⟩,
    fun k hk => encodeBlock_getElem_hexDigit r hk, hversion, hvariant, isWellFormed_encodeBlock r⟩
  by_contra hne
  obtain ⟨n, hn⟩ := encodeBlock_getElem_hexDigit r hk hne
  exact hexDigit_ne_hyphen n (hn.symm.trans hhyphen)

/-! ### What an identifier tells of its block (42_encoder.md R138) -/

/-- A digit names its nibble (30_encoding.md R64). -/
theorem hexDigit_injective : Function.Injective hexDigit := by
  unfold Function.Injective
  decide

/-- Bytes with equal nibbles are equal: a byte is its high nibble and its low one (00_scope.md R9). -/
theorem byte_ext {b c : Byte} (hlo : lo4 b = lo4 c) (hhi : hi4 b = hi4 c) : b = c := by
  have happend : ∀ a : Byte, hi4 a ++ lo4 a = a := fun _ => BitVec.extractLsb'_append_extractLsb' (w := 4) (len := 4)
  rw [← happend b, ← happend c, hlo, hhi]

/-- The variant byte tells the low six bits (30_encoding.md R69). -/
theorem low_six_eq_of_forceVariant_eq {b c : Byte} (h : forceVariant b = forceVariant c) :
    b.extractLsb' 0 6 = c.extractLsb' 0 6 := by
  rw [forceVariant_eq_append, forceVariant_eq_append] at h
  exact (BitVec.append_right_inj _).1 h

/-- The byte whose nibbles the encoder formats for byte `i`: byte 8 with its variant forced, every other as it is
(42_encoder.md R131). -/
def formattedByte (r : Block) (i : Nat) (hi : i < 16) : Byte := if i = 8 then forceVariant r[i] else r[i]

/-- The two characters of byte `i` are digits of its formatted byte (30_encoding.md R65, R66), so equal identifiers
have equal low nibbles there, and equal high nibbles but for byte 6, whose first character is the version. -/
theorem nibbles_eq_of_encodeBlock_eq {r r' : Block} (h : encodeBlock r = encodeBlock r') {i : Nat} (hi : i < 16) :
    lo4 (formattedByte r i hi) = lo4 (formattedByte r' i hi) ∧
      (i ≠ 6 → hi4 (formattedByte r i hi) = hi4 (formattedByte r' i hi)) := by
  obtain ⟨hfirst, hsecond⟩ := encodeCharacters r i hi
  obtain ⟨hfirst', hsecond'⟩ := encodeCharacters r' i hi
  rw [h] at hfirst hsecond
  replace hfirst := Option.some.inj (hfirst.symm.trans hfirst')
  replace hsecond := Option.some.inj (hsecond.symm.trans hsecond')
  by_cases hlow : i ≤ 3
  · rw [if_pos hlow, if_pos hlow] at hfirst hsecond
    exact ⟨hexDigit_injective hfirst, fun _ => hexDigit_injective hsecond⟩
  · rw [if_neg hlow, if_neg hlow] at hfirst hsecond
    refine ⟨hexDigit_injective hsecond, fun hversion => ?_⟩
    rw [if_neg hversion, if_neg hversion] at hfirst
    exact hexDigit_injective hfirst

/-- Equal identifiers come from equal formatted bytes, byte 6 apart. -/
theorem formattedByte_eq_of_encodeBlock_eq {r r' : Block} (h : encodeBlock r = encodeBlock r') {i : Nat} (hi : i < 16)
    (hversion : i ≠ 6) : formattedByte r i hi = formattedByte r' i hi := by
  obtain ⟨hlo, hhi⟩ := nibbles_eq_of_encodeBlock_eq h hi
  exact byte_ext hlo (hhi hversion)

/-- Settles O34: the characters give back the formatted bytes, and these all bits but the six. -/
theorem encodeForgetsExactlySixBits : Obligations.EncodeForgetsExactlySixBits := by
  intro r r'
  refine ⟨fun h => ⟨fun i hi h6 h8 => ?bytes, ?version, ?variant⟩,
    fun ⟨hbytes, hversion, hvariant⟩ => encodeBlock_congr hbytes hversion hvariant⟩
  case bytes => simpa [formattedByte, h8] using formattedByte_eq_of_encodeBlock_eq h hi h6
  case version => exact (nibbles_eq_of_encodeBlock_eq h (i := 6) (by decide)).1
  case variant =>
    exact low_six_eq_of_forceVariant_eq (formattedByte_eq_of_encodeBlock_eq h (i := 8) (by decide) (by decide))

/-! ### The identifiers a step returns (44_external_ops.md R181) -/

/-- Of the operations, ENCODE alone returns an identifier at once, and it leaves it in the port's STR
(42_encoder.md R131). -/
theorem exec_ident_mem_str {s t : State} {o : Instr} {a : Agent} {u : Identifier} (h : exec o s = .next t)
    (hout : t.out = some (a, .ident u)) : ∃ x ∈ t.ports, x.str = .written u := by
  cases o with
  | init => obtain ⟨-, rfl⟩ := execInit_next h; cases hout
  | claim slot => obtain ⟨_, _, -, -, -, -, -, -, rfl⟩ := execClaim_next h; cases hout
  | advance slot => obtain ⟨_, _, _, -, -, -, -, -, -, -, rfl⟩ := execAdvance_next h; cases hout
  | encode =>
    obtain ⟨p, x, r, -, hx, -, -, -, rfl⟩ := execEncode_next h
    cases hout
    refine ⟨{ x with str := .written (encodeBlock r) }, List.mem_of_getElem? (i := p) ?_, rfl⟩
    simp [encodeState, hx]
  | release slot => obtain ⟨_, _, -, -, -, -, -, -, rfl⟩ := execRelease_next h; cases hout
  | next start => obtain ⟨_, _, -, -, -, -, -, rfl⟩ := acceptNext_next h; cases hout
  | iswf payload => obtain ⟨_, _, -, -, -, rfl⟩ := execIswf_next h; cases hout
  | genv4 => obtain ⟨_, _, -, -, -, -, -, rfl⟩ := acceptNext_next h; cases hout

/-- The rel step is the one step of a NEXT that returns an identifier, and it leaves it in the port's STR
(43_arbiter.md R157). -/
theorem proceed_ident_mem_str {s t : State} {p : Nat} {a : Agent} {u : Identifier} (h : proceed p s = .next t)
    (hout : t.out = some (a, .ident u)) : ∃ x ∈ t.ports, x.str = .written u := by
  obtain ⟨x, hx, ⟨-, rfl⟩ | ⟨-, -, _, -, -, rfl⟩ | ⟨-, -, _, -, -, rfl⟩ | ⟨-, -, _, _, -, -, rfl⟩ | ⟨-, -, _, -, rfl⟩ |
    ⟨-, -, _, _, -, hstr, rfl⟩⟩ := proceed_next h
  case inr.inr.inr.inr.inr =>
    cases hout
    refine ⟨{ x with held := none, pstate := .idle }, List.mem_of_getElem? (i := p) ?_, hstr⟩
    simp [releaseState, storeRel, hx]
  all_goals cases hout

/-- A returned identifier stands in a port's STR after the step (10_state.md R21). -/
theorem step_ident_mem_str {s t : State} {a : Agent} {u : Identifier} (h : step s = .next t)
    (hout : t.out = some (a, .ident u)) : ∃ x ∈ t.ports, x.str = .written u := by
  obtain ⟨b, c, o, -, -, hexec⟩ | ⟨p, -, hproceed⟩ | ⟨-, rfl⟩ := step_cases h
  · exact exec_ident_mem_str hexec hout
  · exact proceed_ident_mem_str hproceed hout
  · cases hout

/-- Settles O44: the step keeps the invariant, so the STR that holds the identifier has the shape. -/
theorem returnedIdentifiersWellFormed : Obligations.ReturnedIdentifiersWellFormed := by
  intro s t a u hinv hstep hout
  obtain ⟨x, hx, hstr⟩ := step_ident_mem_str hstep hout
  exact (invariantKept s t hinv hstep).identsWellFormed x hx u hstr

end Sys2Proof.Machine

/-! SUPPORT. The scan step, and a whole NEXT in which no other agent steps (O39, O42). -/

namespace Sys2Proof.Machine

section ScanFrames

variable {s t : State} {i p : Nat} {x : Port} {rest : List Event}

/-- Where only FLAG[i] is written among the slots: what the write sets, and what it leaves of every slot
(20_memory.md R44). -/
theorem setFlag_slots_frame {f : Flag} (hi : i < s.nSlots) (h : t.slots = (s.setFlag i f).slots) :
    t.flag i = some f ∧ t.key i = s.key i ∧ t.chain i = s.chain i ∧ SameSlotsBut i s t := by
  refine ⟨?flag, ?key, ?chain, sameSlotsBut_of_modify h⟩
  case flag => rw [flag_eq_of_slots h, flag_setFlag_self hi]
  case key => rw [key_eq_of_slots h, State.key_setFlag]
  case chain => rw [chain_eq_of_slots h, State.chain_setFlag]

/-- The scan step at a free flag (43_arbiter.md R157), from the event on: the effect of a CLAIM that succeeds, and
PSTATE moves on. -/
theorem step_scan_free_frame (hinputs : s.inputs = .proceed p :: rest) (hr : s.phase = .ready)
    (hx : s.ports[p]? = some x) (hq : x.pstate = .scan) (hidx : x.idx = .written i) (hfree : s.flag i = some .free) :
    ∃ t, step s = .next t ∧ t.flag i = some .claimed ∧ t.key i = s.key i ∧ t.chain i = s.chain i ∧
      t.ports[p]? = some { x with held := some i, pstate := .adv } ∧ t.out = none ∧
      SameStatus s t ∧ SameSlotsBut i s t ∧ SamePortsBut p s t ∧ t.inputs = rest := by
  have hstep : step s = proceed p { s with inputs := rest, issuer := .port p } := step_of_inputs_cons hinputs
  have hproceed := proceed_scan (s := { s with inputs := rest, issuer := .port p }) hr hx hq
  refine ⟨_, hstep.trans (hproceed.trans (scanStep_of_free hidx hfree)), ?_⟩
  obtain ⟨hflag, hkey, hchain, hslots⟩ := setFlag_slots_frame (s := s) (f := .claimed)
    (t := (((State.setFlag i .claimed { s with inputs := rest, issuer := .port p }).setHeld p (some i)).setPState p
      .adv).silent) (lt_nSlots_of_flag hfree) rfl
  refine ⟨hflag, hkey, hchain, ?_, rfl, ⟨rfl, rfl, rfl⟩, hslots, ?_, rfl⟩
  · simp [hx]
  · exact samePortsBut_of_modify (List.modify_modify_eq _ _ _ _)

/-- The scan step at a flag that is not free (43_arbiter.md R155, R157), from the event on: IDX[p] is all that is
written. -/
theorem step_scan_not_free_frame (hinputs : s.inputs = .proceed p :: rest) (hr : s.phase = .ready)
    (hx : s.ports[p]? = some x) (hq : x.pstate = .scan) (hidx : x.idx = .written i) (hflag : s.flag i ≠ some .free) :
    ∃ t, step s = .next t ∧ t.slots = s.slots ∧ t.ports[p]? = some { x with idx := .written (nextIndex i s) } ∧
      t.out = none ∧ SameStatus s t ∧ SamePortsBut p s t ∧ t.inputs = rest := by
  have hstep : step s = proceed p { s with inputs := rest, issuer := .port p } := step_of_inputs_cons hinputs
  have hproceed := proceed_scan (s := { s with inputs := rest, issuer := .port p }) hr hx hq
  refine ⟨_, hstep.trans (hproceed.trans (scanStep_of_not_free hidx hflag)), rfl, ?_, rfl, ⟨rfl, rfl, rfl⟩,
    samePortsBut_of_modify rfl, rfl⟩
  rw [State.silent_ports, State.setIdx_ports, List.getElem?_modify_eq, hx]
  rfl

end ScanFrames

/-- Settles O39: one frame for each outcome of the claim attempt. -/
theorem scanStepOutcomes : Obligations.ScanStep :=
  fun _ _ _ _ _ hinputs hr hx hq hidx =>
    ⟨step_scan_free_frame hinputs hr hx hq hidx, step_scan_not_free_frame hinputs hr hx hq hidx⟩

/-! ### Frames along a run -/

section RunFrames

variable {s t u : State} {i p : Nat}

theorem SameStatus.trans (h : SameStatus s t) (h' : SameStatus t u) : SameStatus s u := by
  obtain ⟨hphase, hfcause, hfinfo⟩ := h
  obtain ⟨hphase', hfcause', hfinfo'⟩ := h'
  exact ⟨hphase'.trans hphase, hfcause'.trans hfcause, hfinfo'.trans hfinfo⟩

/-- A step that keeps the status of a READY machine leaves it READY. -/
theorem SameStatus.ready (h : SameStatus s t) (hr : s.phase = .ready) : t.phase = .ready :=
  h.1.trans hr

theorem SameSlotsBut.trans (h : SameSlotsBut i s t) (h' : SameSlotsBut i t u) : SameSlotsBut i s u :=
  ⟨h'.1.trans h.1, fun j hj => (h'.2 j hj).trans (h.2 j hj)⟩

theorem SamePortsBut.trans (h : SamePortsBut p s t) (h' : SamePortsBut p t u) : SamePortsBut p s u :=
  ⟨h'.1.trans h.1, fun q hq => (h'.2 q hq).trans (h.2 q hq)⟩

theorem sameSlotsBut_of_slots (h : t.slots = s.slots) : SameSlotsBut i s t :=
  ⟨nSlots_eq_of_slots h, fun j _ => congrArg (·[j]?) h⟩

/-- A flag that is as before at slot `i` too is as before everywhere. -/
theorem SameSlotsBut.flag_eq (h : SameSlotsBut i s t) (hi : t.flag i = s.flag i) (j : Nat) : t.flag j = s.flag j := by
  obtain ⟨-, hslots⟩ := h
  obtain rfl | hj := eq_or_ne j i
  · exact hi
  · rw [State.flag, State.flag, hslots j hj]

theorem nextIndex_eq_of_slots (h : t.slots = s.slots) (j : Nat) : nextIndex j t = nextIndex j s := by
  rw [nextIndex, nextIndex, State.mask, State.mask, nSlots_eq_of_slots h]

/-- A run that goes through has a first step and the rest of the run. -/
theorem exists_step_of_run_succ {n : Nat} (h : Sys2Proof.core.run (n + 1) s = .next t) :
    ∃ u, step s = .next u ∧ Sys2Proof.core.run n u = .next t := by
  simp only [Host.Core.run] at h
  split at h
  case h_1 u hstep => exact ⟨u, hstep, h⟩
  case h_2 => cases h
  case h_3 => cases h

/-- A run is its first steps and then the others. -/
theorem run_add_of_run {m : Nat} (n : Nat) (h : Sys2Proof.core.run m s = .next t) :
    Sys2Proof.core.run (m + n) s = Sys2Proof.core.run n t := by
  induction m generalizing s with
  | zero =>
    cases h
    rw [Nat.zero_add]
  | succ m ih =>
    obtain ⟨u, hstep, hrest⟩ := exists_step_of_run_succ h
    rw [Nat.succ_add, run_succ_of_step (m + n) hstep, ih hrest]

end RunFrames

/-! ### The three parts of a NEXT: acceptance, the attempts that fail, the attempt that succeeds and its effects -/

section WholeNext

variable {s : State} {p i : Nat} {x : Port} {rest : List Event}

/-- The command of NEXT is NEXT under the decoder's name for it, an acceptance under either name
(44_external_ops.md R180). -/
theorem present_nextCommand (a : Agent) (start : Byte) :
    present a ⟨commandWord 0x6 start, []⟩ s = acceptNext start { s with issuer := a } := by
  have hdecode : decode s.nSlots ⟨commandWord 0x6 start, []⟩ = .ok (Instr.next start).decodedName := by
    refine decode_ok_iff.2 ⟨zeroOf_commandWord _ _, ?_, ?_⟩
    · simp [payloadLength]
    · rw [opcOf_commandWord, argOf_commandWord, decodeFields_next]
  rw [present_of_decode hdecode, Instr.decodedName]
  split
  · rw [‹start = 0›]
    rfl
  · rfl

/-- The step in which NEXT is accepted (43_arbiter.md R157), from the event on. -/
theorem step_next_frame {start : Byte}
    (hinputs : s.inputs = .command (.port p) ⟨commandWord 0x6 start, []⟩ :: rest) (hr : s.phase = .ready)
    (hx : s.ports[p]? = some x) (hq : x.pstate = .idle) (hheld : x.held = none) :
    ∃ t, step s = .next t ∧ t.slots = s.slots ∧
      t.ports[p]? = some { x with idx := .written (startIndex start s), pstate := .scan } ∧
      SameStatus s t ∧ SamePortsBut p s t ∧ t.inputs = rest := by
  have hstep : step s = acceptNext start { s with inputs := rest, issuer := .port p } :=
    (step_of_inputs_cons hinputs).trans (present_nextCommand _ _)
  obtain ⟨t, haccept, hport, -, hslots, hstatus, ⟨-, hrest, -⟩, hports⟩ :=
    acceptNext_frame (s := { s with inputs := rest, issuer := .port p }) (start := start) ⟨⟨rfl, hx, hq⟩, hr⟩ hheld
  exact ⟨t, hstep.trans haccept, hslots, hport, hstatus, hports, hrest⟩

/-- `n` attempts that find their flags not free move IDX[p] on by `n` slots in scan order, and do nothing else
(43_arbiter.md R155). -/
theorem run_scan_not_free {n : Nat} (hinputs : s.inputs = List.replicate n (.proceed p) ++ rest)
    (hr : s.phase = .ready) (hx : s.ports[p]? = some x) (hq : x.pstate = .scan) (hidx : x.idx = .written i)
    (htaken : ∀ m, m < n → s.flag ((fun j => nextIndex j s)^[m] i) ≠ some .free) :
    ∃ t, Sys2Proof.core.run n s = .next t ∧ t.slots = s.slots ∧
      t.ports[p]? = some { x with idx := .written ((fun j => nextIndex j s)^[n] i) } ∧
      SameStatus s t ∧ SamePortsBut p s t ∧ t.inputs = rest := by
  induction n generalizing s x i with
  | zero =>
    refine ⟨s, rfl, rfl, ?_, ⟨rfl, rfl, rfl⟩, ⟨rfl, fun _ _ => rfl⟩, hinputs⟩
    rw [Function.iterate_zero_apply, ← hidx, hx]
  | succ n ih =>
    obtain ⟨u, hstep, huslots, huport, -, hustatus, huports, huinputs⟩ :=
      step_scan_not_free_frame hinputs hr hx hq hidx (htaken 0 n.succ_pos)
    have hnext : (fun j => nextIndex j u) = fun j => nextIndex j s := funext (nextIndex_eq_of_slots huslots)
    have hutaken : ∀ m, m < n → u.flag ((fun j => nextIndex j u)^[m] (nextIndex i s)) ≠ some .free := by
      intro m hm
      rw [flag_eq_of_slots huslots, hnext]
      exact htaken (m + 1) (Nat.succ_lt_succ hm)
    obtain ⟨t, hrun, hslots, hport, hstatus, hports, hrest⟩ :=
      ih huinputs (hustatus.ready hr) huport hq rfl hutaken
    rw [hnext] at hport
    exact ⟨t, (run_succ_of_step n hstep).trans hrun, hslots.trans huslots, hport, hustatus.trans hstatus,
      huports.trans hports, hrest⟩

/-- From an attempt that finds its flag free, the scan, adv, enc and rel steps end the NEXT: the slot's CHAIN is
advanced once and its flag is free again, the identifier is returned and the port is idle (43_arbiter.md R157). -/
theorem run_scan_free {k c : Block} (hinputs : s.inputs = List.replicate 4 (.proceed p) ++ rest)
    (hr : s.phase = .ready) (hx : s.ports[p]? = some x) (hq : x.pstate = .scan) (hidx : x.idx = .written i)
    (hfree : s.flag i = some .free) (hkey : s.key i = .written k) (hchain : s.chain i = .written c) :
    ∃ t, Sys2Proof.core.run 4 s = .next t ∧
      t.out = some (.port p, .ident (encodeBlock (blockEncrypt k c))) ∧
      t.chain i = .written (blockEncrypt k c) ∧ t.key i = .written k ∧ t.flag i = some .free ∧
      t.ports[p]? = some { x with
        pstate := .idle, held := none,
        raw := .written (blockEncrypt k c), str := .written (encodeBlock (blockEncrypt k c)) } ∧
      SameStatus s t ∧ SameSlotsBut i s t ∧ SamePortsBut p s t ∧ t.inputs = rest := by
  obtain ⟨s₁, hscan, -, hkey₁, hchain₁, hport₁, -, hstatus₁, hslots₁, hports₁, hinputs₁⟩ :=
    step_scan_free_frame hinputs hr hx hq hidx hfree
  obtain ⟨s₂, hadv, hchain₂, hkey₂, -, hport₂, -, hstatus₂, hslots₂, hports₂, hinputs₂⟩ :=
    step_adv_frame hinputs₁ (hstatus₁.ready hr) hport₁ rfl rfl (hkey₁.trans hkey) (hchain₁.trans hchain)
  have hstatus₂ := hstatus₁.trans hstatus₂
  obtain ⟨s₃, henc, hport₃, -, hslots₃, hstatus₃, hports₃, hinputs₃⟩ :=
    step_enc_frame hinputs₂ (hstatus₂.ready hr) hport₂ rfl rfl
  have hstatus₃ := hstatus₂.trans hstatus₃
  have hchain₃ := (chain_eq_of_slots hslots₃ i).trans hchain₂
  obtain ⟨t, hrel, hflag, hkey', hchain', hport, hout, hstatus, hslots, hports, hrest⟩ :=
    step_rel_frame hinputs₃ (hstatus₃.ready hr) hport₃ rfl rfl (lt_nSlots_of_chain hchain₃) rfl
  have hrun : Sys2Proof.core.run 4 s = .next t := by
    rw [run_succ_of_step 3 hscan, run_succ_of_step 2 hadv, run_succ_of_step 1 henc, run_succ_of_step 0 hrel]
    rfl
  refine ⟨t, hrun, hout, hchain'.trans hchain₃, ?key, hflag, hport, hstatus₃.trans hstatus, ?slots, ?ports, hrest⟩
  case key => rw [hkey', key_eq_of_slots hslots₃, hkey₂]
  case slots => exact ((hslots₁.trans hslots₂).trans (sameSlotsBut_of_slots hslots₃)).trans hslots
  case ports => exact ((hports₁.trans hports₂).trans hports₃).trans hports

end WholeNext

/-- Settles O42: the acceptance, k − 1 attempts that fail, and the four steps from the attempt that succeeds. -/
theorem nextTakesKPlusFourSteps : Obligations.NextTakesKPlusFourSteps := by
  intro k s p i x start kb c rest hk hr hx hq hheld hinputs hi htaken hfree hkey hchain
  obtain ⟨n, rfl⟩ : ∃ n, k = n + 1 := Nat.exists_eq_add_one.2 hk
  rw [Nat.add_sub_cancel] at hi htaken
  obtain ⟨u, haccept, huslots, huport, hustatus, huports, huinputs⟩ := step_next_frame hinputs hr hx hq hheld
  have hnext : (fun j => nextIndex j u) = fun j => nextIndex j s := funext (nextIndex_eq_of_slots huslots)
  have hutaken : ∀ m, m < n → u.flag ((fun j => nextIndex j u)^[m] (startIndex start s)) ≠ some .free := by
    intro m hm
    rw [flag_eq_of_slots huslots, hnext, htaken m hm]
    decide
  rw [show n + 1 + 3 = n + 4 from rfl, List.replicate_add, List.append_assoc] at huinputs
  obtain ⟨v, hscan, hvslots, hvport, hvstatus, hvports, hvinputs⟩ :=
    run_scan_not_free huinputs (hustatus.ready hr) huport rfl rfl hutaken
  rw [hnext, ← hi] at hvport
  have hslots := hvslots.trans huslots
  have hstatus := hustatus.trans hvstatus
  obtain ⟨t, hlast, hout, hchain', hkey', hflag, hport, htstatus, htslots, htports, hrest⟩ :=
    run_scan_free hvinputs (hstatus.ready hr) hvport rfl rfl ((flag_eq_of_slots hslots i).trans hfree)
      ((key_eq_of_slots hslots i).trans hkey) ((chain_eq_of_slots hslots i).trans hchain)
  have hrun : Sys2Proof.core.run (n + 1 + 4) s = .next t :=
    (run_succ_of_step (n + 4) haccept).trans ((run_add_of_run 4 hscan).trans hlast)
  have hsame : SameSlotsBut i s t := (sameSlotsBut_of_slots hslots).trans htslots
  refine ⟨t, hrun, hout, hchain', hkey', hsame.flag_eq (hflag.trans hfree.symm), ?port, hstatus.trans htstatus, hsame,
    (huports.trans hvports).trans htports, hrest⟩
  case port => rw [hport, ← hq, ← hheld]

end Sys2Proof.Machine

/-! SUPPORT. GENV4 and ISWF (O43, O45, O46). -/

namespace Sys2Proof.Machine

/-- Settles O43: both names have one word and are the same acceptance. -/
theorem genv4IsNextZero : Obligations.Genv4IsNextZero :=
  ⟨rfl, rfl, fun _ => rfl⟩

/-! ### The shape check (44_external_ops.md R182) -/

/-- The digits of either case are three ranges of bytes. -/
theorem isHex_iff {c : Byte} : isHex c = true ↔
    (0x30 ≤ c.toNat ∧ c.toNat ≤ 0x39) ∨ (0x41 ≤ c.toNat ∧ c.toNat ≤ 0x46) ∨ (0x61 ≤ c.toNat ∧ c.toNat ≤ 0x66) := by
  simp [isHex, or_assoc]

theorem isHyphenPos_iff {k : Nat} : isHyphenPos k = true ↔ k = 8 ∨ k = 13 ∨ k = 18 ∨ k = 23 := by
  simp [isHyphenPos, or_assoc]

/-- A character the payload has passes as a hyphen or as a digit, by its position. -/
theorem charOk_iff {payload : List Byte} {k : Nat} {c : Byte} (h : payload[k]? = some c) :
    charOk payload k = true ↔ if k = 8 ∨ k = 13 ∨ k = 18 ∨ k = 23 then c = 0x2D
      else (0x30 ≤ c.toNat ∧ c.toNat ≤ 0x39) ∨ (0x41 ≤ c.toNat ∧ c.toNat ≤ 0x46) ∨
        (0x61 ≤ c.toNat ∧ c.toNat ≤ 0x66) := by
  by_cases hk : k = 8 ∨ k = 13 ∨ k = 18 ∨ k = 23
  · simp [charOk, h, hk, isHyphenPos_iff, hyphen]
  · simp [charOk, h, hk, isHyphenPos_iff, isHex_iff]

/-- The check asks for the length, and then for every character there is. -/
theorem isWellFormed_iff {payload : List Byte} : isWellFormed payload = true ↔
    payload.length = 36 ∧ ∀ (k : Nat) (c : Byte), payload[k]? = some c → charOk payload k = true := by
  simp only [isWellFormed, Bool.and_eq_true, beq_iff_eq, List.all_eq_true, List.mem_range]
  refine and_congr_right fun hlen => ⟨fun h k c hc => ?_, fun h k hk => ?_⟩
  · exact h k (hlen ▸ (List.getElem?_eq_some_iff.1 hc).1)
  · exact h k _ (List.getElem?_eq_getElem (hlen ▸ hk))

/-! ### ISWF -/

/-- ISWF by an idle port completes in every phase (44_external_ops.md R182). -/
theorem exec_iswf_of {s : State} {p : Nat} {x : Port} (h : IssuedBy p x s) (payload : List Byte) :
    exec (.iswf payload) s = .next ((s.setWf p (isWellFormed payload)).respond (.bit (isWellFormed payload))) := by
  obtain ⟨hissuer, hx, hidle⟩ := h
  exact withIdlePort_of hissuer hx hidle

/-- WF[p] written and returned: what the write sets, and everything it leaves (44_external_ops.md R182). -/
theorem setWf_respond_frame {s t : State} {p : Nat} {x : Port} (h : IssuedBy p x s) (b : Bool)
    (ht : t = (s.setWf p b).respond (.bit b)) :
    t.ports[p]? = some { x with wf := .written b } ∧ t.out = some (.port p, .bit b) ∧ t.slots = s.slots ∧
      SameStatus s t ∧ SameOutside s t ∧ SamePortsBut p s t := by
  obtain ⟨hissuer, hx, -⟩ := h
  subst ht
  refine ⟨?port, ?out, rfl, ⟨rfl, rfl, rfl⟩, ⟨rfl, rfl, rfl, rfl⟩, samePortsBut_of_modify rfl⟩
  case port => simp [hx]
  case out => simp [hissuer]

/-- Settles O45: ISWF writes and returns the shape check, which is the length and one test per character. -/
theorem iswfChecksTheShape : Obligations.IswfChecksTheShape := by
  intro s p x payload h
  refine ⟨_, isWellFormed payload, exec_iswf_of h payload, ?_, setWf_respond_frame h _ rfl⟩
  exact isWellFormed_iff.trans <| and_congr_right fun _ =>
    forall_congr' fun k => forall_congr' fun c => forall_congr' fun hc => charOk_iff hc

/-- Settles O46: an encoded block passes the shape check, which ISWF writes and returns. -/
theorem validatorAcceptsIdentifiers : Obligations.ValidatorAcceptsIdentifiers := by
  intro s p x r h
  have hexec := exec_iswf_of h (encodeBlock r).toList
  rw [isWellFormed_encodeBlock] at hexec
  obtain ⟨hport, hout, -⟩ := setWf_respond_frame h true rfl
  exact ⟨_, hexec, hout, hport⟩

end Sys2Proof.Machine

/-! SUPPORT. How INIT ends, and its loop up to the first draw that fails (O47, O50). -/

namespace Sys2Proof.Machine

section InitEnds

variable (accepts : Block → Bool) (s : State)

@[simp] theorem initWith_inputs : (initWith accepts s).inputs = s.inputs := by
  obtain h | ⟨_, _, _, -, h⟩ | ⟨_, _, _, _, -, h⟩ := initWith_cases accepts s <;> rw [h] <;> rfl

@[simp] theorem initWith_issuer : (initWith accepts s).issuer = s.issuer := by
  obtain h | ⟨_, _, _, -, h⟩ | ⟨_, _, _, _, -, h⟩ := initWith_cases accepts s <;> rw [h] <;> rfl

/-- A constructed generator holds its key and its chaining state (44_external_ops.md R187). -/
theorem builtSlot_built (e : EntropyRecord) : (builtSlot e).Built := ⟨⟨_, rfl⟩, _, rfl⟩

/-- INIT ends READY with every generator constructed and free and no fault recorded, or FATAL with a cause and the
flags kept (44_external_ops.md R185, 60_exceptions.md R204, R206). -/
theorem initWith_ready_or_fatal :
    ((initWith accepts s).phase = .ready ∧ (initWith accepts s).fcause = s.fcause ∧
      (initWith accepts s).finfo = s.finfo ∧ ∀ x ∈ (initWith accepts s).slots, x.Built ∧ x.flag = .free) ∨
    ((initWith accepts s).phase = .fatal ∧ (initWith accepts s).fcause ≠ .none ∧
      ∀ i, (initWith accepts s).flag i = s.flag i) := by
  obtain h | ⟨slots, supply, fresh, hc, h⟩ | ⟨cause, slot, supply, fresh, hc, h⟩ := initWith_cases accepts s <;> rw [h]
  · exact .inr ⟨rfl, by simp, State.flag_raiseFatal _ _ s⟩
  · refine .inl ⟨rfl, rfl, rfl, fun x hx => ?_⟩
    obtain ⟨e, rfl⟩ := (construct_built hc).2 x hx
    exact ⟨builtSlot_built e, rfl⟩
  · have hcause : cause ≠ .none := by
      obtain ⟨rfl | rfl, -⟩ := construct_failed hc <;> decide
    exact .inr ⟨rfl, hcause, State.flag_raiseFatal cause slot { s with supply := supply, fresh := fresh }⟩

end InitEnds

/-- Settles O47: INIT completes in RESET, and both its ends, READY and FATAL, leave what its loop does not construct. -/
theorem initEndsReadyOrFatal : Obligations.InitEndsReadyOrFatal := by
  intro s hmay hr
  refine ⟨_, execInit_of hmay hr, ?out, ?ports, nSlots_initWith cipherConstruct s, ?inputs, ?issuer,
    initWith_ready_or_fatal cipherConstruct s⟩
  all_goals simp

section FirstFailedDraw

variable {accepts : Block → Bool} {bytes : List Byte} {count i fresh : Nat} {supply : List (List Byte)}

/-- A draw that is not 32 bytes ends the loop at its slot, the draw used up (44_external_ops.md R188). -/
theorem construct_cons_fail (h : bytes.length ≠ 32) :
    construct accepts (count + 1) i (bytes :: supply) fresh = (.failed .entropyUnavailable i, supply, fresh) := by
  simp [construct, drawOf_fail h]

/-- Draw `f` being the first that is not 32 bytes, the loop fails at that slot with `f + 1` draws used up
(44_external_ops.md R185, R188). -/
theorem construct_first_fail {f : Nat} (hf : f < count)
    (hgood : ∀ j, j < f → ∃ e : EntropyRecord, supply[j]? = some e.toList ∧ accepts (keyHalf e) = true)
    (hdraw : supply[f]? = some bytes) (hbytes : bytes.length ≠ 32) :
    construct accepts count i supply fresh = (.failed .entropyUnavailable (i + f), supply.drop (f + 1), fresh) := by
  obtain ⟨n, rfl⟩ : ∃ n, count = n + 1 + f := ⟨count - f - 1, by omega⟩
  apply construct_failed_of_drop hgood
  obtain ⟨hlt, hget⟩ := List.getElem?_eq_some_iff.1 hdraw
  rw [List.drop_eq_getElem_cons hlt, hget]
  exact construct_cons_fail hbytes

end FirstFailedDraw

/-- Settles O50: INIT's loop fails at the first draw that is not 32 bytes, and raising Fatal records its slot. -/
theorem entropyFailureIsFatal : Obligations.EntropyFailureIsFatal := by
  intro s f bytes hmay hr hpool hf hgood hdraw hbytes
  have hc : construct cipherConstruct s.nSlots 0 s.supply s.fresh = _ :=
    construct_first_fail hf (fun j hj => (hgood j hj).imp fun e he => ⟨he, rfl⟩) hdraw hbytes
  refine ⟨_, execInit_of hmay hr, ?_⟩
  rw [initWith_failed hpool hc, Nat.zero_add]
  exact ⟨rfl, rfl, toNat_finfo_of_slot hpool hf, rfl, rfl,
    State.flag_raiseFatal .entropyUnavailable f { s with supply := s.supply.drop (f + 1) }⟩

end Sys2Proof.Machine

/-! SUPPORT. Outside READY a port moves by waiting or by ISWF only, and neither touches a slot (O52). -/

namespace Sys2Proof.Machine

section NotReady

variable {p : Nat} {s t u : State} {x y : Port}

/-- Outside READY the only steps of a port are waiting and ISWF's check (70_reset_and_hazards.md R233), and both
leave the machine around the port as it is. -/
theorem PortStep.eq_of_not_ready (h : PortStep s x y u) (hr : s.phase ≠ .ready) : u = s := by
  cases h with
  | wait hidle => rfl
  | check b hidle => rfl
  | seek _ hready | claim _ _ hready | advance _ _ _ hready | encode _ _ hready | release _ hready =>
    exact absurd hready hr

theorem PortMove.slots_of_not_ready (m : PortMove p s t x y) (hr : s.phase ≠ .ready) : t.slots = s.slots := by
  obtain ⟨u, hstep, hu⟩ := m.step
  rw [hu, hstep.eq_of_not_ready hr]

end NotReady

/-- A step of a FATAL machine that is no hardware reset is a move of one port: INIT is enabled in RESET only
(44_external_ops.md R189). -/
theorem step_move_of_fatal {s t : State} (hf : s.phase = .fatal) (hne : s.event ≠ .hardwareReset)
    (h : step s = .next t) : ∃ p x y, PortMove p s t x y := by
  obtain ⟨he, -⟩ | ⟨-, hreset, -⟩ | ⟨-, -, p, x, y, -, m⟩ := step_move h
  · exact absurd he hne
  · exact absurd (hf.symm.trans hreset) (by decide)
  · exact ⟨p, x, y, m⟩

/-- Settles O52: every such step is a move of one port, which keeps the status, and outside READY the slots. -/
theorem fatalIsSticky : Obligations.FatalIsSticky := by
  intro s t hf hne h
  obtain ⟨p, x, y, m⟩ := step_move_of_fatal hf hne h
  have hready : s.phase ≠ .ready := by simp [hf]
  exact ⟨m.status, m.slots_of_not_ready hready⟩

end Sys2Proof.Machine

/-! SUPPORT. The two gates in front of every operation, the phase and the idle port: which operations stand behind
which, and what each gate answers when it is shut (O55, O56); the values after a hardware reset (O53). -/

namespace Sys2Proof.Machine

/-- Settles O53: a hardware reset makes every slot `Slot.reset` and every port `Port.reset`. -/
theorem hardwareResetValues : Obligations.HardwareResetValues := by
  intro s rest hinputs
  refine ⟨_, step_of_inputs_cons hinputs, rfl, rfl, rfl, List.length_map _, List.length_map _, rfl,
    fun x hx => ?slot, fun x hx => ?port⟩
  case slot =>
    obtain ⟨-, -, rfl⟩ := List.mem_map.1 hx
    exact ⟨rfl, rfl, rfl⟩
  case port =>
    obtain ⟨-, -, rfl⟩ := List.mem_map.1 hx
    exact ⟨rfl, rfl, rfl, rfl, rfl, rfl⟩

/-! ### The gates, shut -/

section Gates

variable {s : State} {k : Nat → Port → Result} {p : Nat} {x : Port}

/-- An operation issued to a port inside NEXT faults (70_reset_and_hazards.md R242). -/
theorem withIdlePort_of_busy (hissuer : s.issuer = .port p) (hx : s.ports[p]? = some x) (hbusy : x.pstate ≠ .idle) :
    withIdlePort s k = .fault .portBusy := by
  simp [withIdlePort, withPort, hissuer, hx, hbusy]

/-- In READY the gate asks for an idle port and no more (70_reset_and_hazards.md R233). -/
theorem withReadyPort_of_ready (hissuer : s.issuer = .port p) (hx : s.ports[p]? = some x) (hr : s.phase = .ready) :
    withReadyPort s k = withIdlePort s k := by
  simp [withReadyPort, withPort, hissuer, hx, hr]

/-- Outside READY the operation is not enabled, whatever the port is doing (70_reset_and_hazards.md R233). -/
theorem withReadyPort_of_not_ready (hissuer : s.issuer = .port p) (hx : s.ports[p]? = some x)
    (hr : s.phase ≠ .ready) : withReadyPort s k = .refused (.notEnabled s.phase) := by
  simp [withReadyPort, withPort, hissuer, hx, hr]

/-- INIT outside RESET is refused (44_external_ops.md R189). -/
theorem exec_init_of_not_reset (h : MayInit s) (hr : s.phase ≠ .reset) :
    exec .init s = .refused (.notEnabled s.phase) := by
  show execInit s = _
  rw [execInit, withAnyIssuer_of h, if_neg hr]

/-- INIT issued by a port inside NEXT faults before its phase is looked at (70_reset_and_hazards.md R242). -/
theorem exec_init_of_busy (hissuer : s.issuer = .port p) (hx : s.ports[p]? = some x) (hbusy : x.pstate ≠ .idle) :
    exec .init s = .fault .portBusy := by
  show execInit s = _
  rw [execInit, withAnyIssuer, hissuer]
  exact withIdlePort_of_busy hissuer hx hbusy

end Gates

/-! ### Which gate an operation stands behind -/

section Refusals

variable {r : Refusal}

/-- A precondition that faults refuses nothing. -/
theorem ite_fault_ne_refused {c : Prop} [Decidable c] {k : Result} {f : Fault} (h : k ≠ .refused r) :
    (if c then k else .fault f) ≠ .refused r := by
  split
  · exact h
  · simp

/-- Reading a latch refuses nothing. -/
theorem withLatch_ne_refused {α : Type} {l : Latch α} {k : α → Result} (h : ∀ v, k v ≠ .refused r) :
    withLatch l k ≠ .refused r := by
  cases l with
  | unwritten => simp
  | written v => exact h v

end Refusals

/-- The operation stands behind the gate of READY, and nothing behind that gate refuses it. -/
structure BehindReadyPort (i : Instr) (s : State) : Prop where
  enabled : ∀ ph, Enabled i ph = decide (ph = .ready)
  gated : ∃ k, exec i s = withReadyPort s k ∧ ∀ p x r, k p x ≠ .refused r

section Behind

variable {i : Instr} {s : State} {p : Nat} {x : Port}

/-- An operation with a slot operand of the pool passes on to the gate of READY (30_encoding.md R72). -/
theorem behindReadyPort_of_withSlot {slot : Byte} {k : Nat → Nat → Port → Result}
    (hexec : exec i s = withSlot slot s fun j => withReadyPort s (k j)) (hslot : slot.toNat < s.nSlots)
    (henabled : ∀ ph, Enabled i ph = decide (ph = .ready)) (hk : ∀ j p x r, k j p x ≠ .refused r) :
    BehindReadyPort i s :=
  ⟨henabled, k slot.toNat, hexec.trans (withSlot_of hslot), hk slot.toNat⟩

/-- Every well-formed operation but INIT and ISWF stands behind the gate of READY (70_reset_and_hazards.md R233). -/
theorem init_or_iswf_or_behindReadyPort (hwf : i.wf s.nSlots = true) :
    i = .init ∨ (∃ payload, i = .iswf payload) ∨ BehindReadyPort i s := by
  cases i with
  | init => exact .inl rfl
  | iswf payload => exact .inr (.inl ⟨payload, rfl⟩)
  | claim slot =>
    refine .inr (.inr (behindReadyPort_of_withSlot (show execClaim slot s = _ from rfl) (of_decide_eq_true hwf)
      (fun _ => rfl) ?_))
    exact fun _ _ _ _ => ite_fault_ne_refused (by simp)
  | advance slot =>
    refine .inr (.inr (behindReadyPort_of_withSlot (show execAdvance slot s = _ from rfl) (of_decide_eq_true hwf)
      (fun _ => rfl) ?_))
    exact fun _ _ _ _ => ite_fault_ne_refused (by split <;> simp)
  | release slot =>
    refine .inr (.inr (behindReadyPort_of_withSlot (show execRelease slot s = _ from rfl) (of_decide_eq_true hwf)
      (fun _ => rfl) ?_))
    exact fun _ _ _ _ => ite_fault_ne_refused (by simp)
  | encode => exact .inr (.inr ⟨fun _ => rfl, _, rfl, fun _ _ _ => withLatch_ne_refused fun _ => by simp⟩)
  | next start | genv4 =>
    exact .inr (.inr ⟨fun _ => rfl, _, rfl, fun _ _ _ => ite_fault_ne_refused (by simp)⟩)

/-- Of the agents that may issue an operation, an idle port is left when the operation is not INIT. -/
theorem BehindReadyPort.issuedBy (h : BehindReadyPort i s)
    (hissue : (i = .init ∧ MayInit s) ∨ ∃ p x, IssuedBy p x s) : ∃ p x, IssuedBy p x s := by
  refine hissue.resolve_left ?_
  rintro ⟨rfl, -⟩
  exact absurd (h.enabled .reset) (by decide)

/-- An operation that is not enabled in the phase is refused for it (70_reset_and_hazards.md R233). -/
theorem exec_of_not_enabled (hwf : i.wf s.nSlots = true) (hissue : (i = .init ∧ MayInit s) ∨ ∃ p x, IssuedBy p x s)
    (hdisabled : Enabled i s.phase = false) : exec i s = .refused (.notEnabled s.phase) := by
  obtain rfl | ⟨payload, rfl⟩ | hbehind := init_or_iswf_or_behindReadyPort hwf
  · exact exec_init_of_not_reset (hissue.elim And.right .inr) (of_decide_eq_false hdisabled)
  · cases hdisabled
  · obtain ⟨p, x, hissuer, hx, -⟩ := hbehind.issuedBy hissue
    obtain ⟨k, hexec, -⟩ := hbehind.gated
    rw [hbehind.enabled] at hdisabled
    rw [hexec, withReadyPort_of_not_ready hissuer hx (of_decide_eq_false hdisabled)]

/-- An operation that is enabled in the phase is refused for no reason at all (70_reset_and_hazards.md R233). -/
theorem exec_ne_refused_of_enabled (hwf : i.wf s.nSlots = true)
    (hissue : (i = .init ∧ MayInit s) ∨ ∃ p x, IssuedBy p x s) (henabled : Enabled i s.phase = true) (r : Refusal) :
    exec i s ≠ .refused r := by
  obtain rfl | ⟨payload, rfl⟩ | hbehind := init_or_iswf_or_behindReadyPort hwf
  · rw [execInit_of (hissue.elim And.right .inr) (of_decide_eq_true henabled)]
    simp
  · obtain ⟨p, x, h⟩ := hissue.resolve_left (by simp)
    rw [exec_iswf_of h]
    simp
  · obtain ⟨p, x, h⟩ := hbehind.issuedBy hissue
    obtain ⟨k, hexec, hk⟩ := hbehind.gated
    rw [hbehind.enabled] at henabled
    rw [hexec, withReadyPort_of_readyFor ⟨h, of_decide_eq_true henabled⟩]
    exact hk p x r

/-- Every enabled operation issued to a port inside NEXT faults (70_reset_and_hazards.md R242). -/
theorem exec_of_busy (hissuer : s.issuer = .port p) (hx : s.ports[p]? = some x) (hbusy : x.pstate ≠ .idle)
    (hwf : i.wf s.nSlots = true) (henabled : Enabled i s.phase = true) : exec i s = .fault .portBusy := by
  obtain rfl | ⟨payload, rfl⟩ | hbehind := init_or_iswf_or_behindReadyPort hwf
  · exact exec_init_of_busy hissuer hx hbusy
  · exact withIdlePort_of_busy hissuer hx hbusy
  · obtain ⟨k, hexec, -⟩ := hbehind.gated
    rw [hbehind.enabled] at henabled
    rw [hexec, withReadyPort_of_ready hissuer hx (of_decide_eq_true henabled), withIdlePort_of_busy hissuer hx hbusy]

end Behind

/-- Outside READY a step that changes the slots is a hardware reset or an INIT from RESET
(70_reset_and_hazards.md R233). -/
theorem step_init_of_slots_ne {s t : State} (hr : s.phase ≠ .ready) (hne : s.event ≠ .hardwareReset)
    (h : step s = .next t) (hslots : t.slots ≠ s.slots) : s.phase = .reset ∧ s.PresentsInit := by
  obtain ⟨he, -⟩ | ⟨hinit, hreset, -⟩ | ⟨-, -, p, x, y, -, m⟩ := step_move h
  · exact absurd he hne
  · exact ⟨hreset, hinit⟩
  · exact absurd (m.slots_of_not_ready hr) hslots

/-- Settles O55: the phase decides at the gate, and outside READY no move touches a slot. -/
theorem operationsEnabledByPhase : Obligations.OperationsEnabledByPhase :=
  ⟨fun _ _ hwf hissue => ⟨exec_of_not_enabled hwf hissue,
    fun henabled ph => exec_ne_refused_of_enabled hwf hissue henabled (.notEnabled ph)⟩,
    fun _ _ => step_init_of_slots_ne⟩

/-! ### The protocol violations of an idle port -/

section Violations

variable {s : State} {p : Nat} {x : Port} {slot : Byte}

/-- ADVANCE of a slot the port does not hold (40_generator_advance.md R95). -/
theorem exec_advance_of_not_held (h : ReadyFor p x s) (hslot : slot.toNat < s.nSlots)
    (hheld : x.held ≠ some slot.toNat) : exec (.advance slot) s = .fault .notHolder := by
  show execAdvance slot s = _
  rw [execAdvance, withSlot_of hslot, withReadyPort_of_readyFor h, if_neg hheld]

/-- RELEASE of a slot the port does not hold (70_reset_and_hazards.md R242). -/
theorem exec_release_of_not_held (h : ReadyFor p x s) (hslot : slot.toNat < s.nSlots)
    (hheld : x.held ≠ some slot.toNat) : exec (.release slot) s = .fault .notHolder := by
  show execRelease slot s = _
  rw [execRelease, withSlot_of hslot, withReadyPort_of_readyFor h, if_neg hheld]

/-- A second CLAIM (70_reset_and_hazards.md R242). -/
theorem exec_claim_of_holding (h : ReadyFor p x s) (hslot : slot.toNat < s.nSlots) (hheld : x.held ≠ none) :
    exec (.claim slot) s = .fault .alreadyHolding := by
  show execClaim slot s = _
  rw [execClaim, withSlot_of hslot, withReadyPort_of_readyFor h, if_neg hheld]

/-- NEXT, under either of its names, by a port that holds a slot (70_reset_and_hazards.md R242). -/
theorem acceptNext_of_holding (h : ReadyFor p x s) (hheld : x.held ≠ none) (start : Byte) :
    acceptNext start s = .fault .alreadyHolding := by
  rw [acceptNext, withReadyPort_of_readyFor h, if_neg hheld]

/-- ENCODE before any ADVANCE of the port (10_state.md R27). -/
theorem exec_encode_of_unwritten (h : ReadyFor p x s) (hraw : x.raw = .unwritten) :
    exec .encode s = .fault .unwrittenRead := by
  show execEncode s = _
  rw [execEncode, withReadyPort_of_readyFor h, hraw, withLatch_unwritten]

end Violations

/-- Settles O56: each violation fails its operation's own precondition, and a busy port the gate before it. -/
theorem protocolViolationsFault : Obligations.ProtocolViolationsFault := by
  refine fun s p x hissuer hx => ⟨fun hr hidle => ?_, fun hbusy i => exec_of_busy hissuer hx hbusy⟩
  have h : ReadyFor p x s := ⟨⟨hissuer, hx, hidle⟩, hr⟩
  refine ⟨fun slot hslot hheld => ⟨?advance, ?release⟩, fun hheld => ⟨fun slot hslot => ?claim, ?next, ?genv4⟩, ?encode⟩
  case advance => exact exec_advance_of_not_held h hslot hheld
  case release => exact exec_release_of_not_held h hslot hheld
  case claim => exact exec_claim_of_holding h hslot hheld
  case next => exact acceptNext_of_holding h hheld
  case genv4 => exact acceptNext_of_holding h hheld 0
  case encode => exact exec_encode_of_unwritten h

end Sys2Proof.Machine
